-- ==== Sys2Proof/Word.lean ====
section
/-! DEFINITION. The machine's word types (spec 00_scope.md R1, R4): every value is an unsigned number of a
fixed width that wraps at its width, which is what `BitVec` arithmetic does. -/

namespace Sys2Proof

/-- An 8-bit cell: a general register, a timer, a memory cell (R10, R21, R22). -/
abbrev Byte := BitVec 8

/-- A 16-bit cell: `I`, `ip`, `opcode`, a call-stack slot (R15, R18, R19, R24). -/
abbrev Word := BitVec 16

/-- A 12-bit immediate address, the field `nnn` (R61, R63). -/
abbrev Addr12 := BitVec 12

/-- The number of a general register `V0..VF`; every 4-bit field value is legal (R10, R11). -/
abbrev RegNum := Fin 16

/-- The number of `VF`, the one flag register (R12). -/
def flagReg : RegNum := 15

end Sys2Proof
end

