-- ==== Sys2Proof/Config.lean ====
section
/-! DEFINITION. What is fixed for one machine: the constants of spec 00_scope.md R1, the open parameters of R2
with their defaults, and the free values the model takes for the inputs of a Cycle that no host has scheduled. -/

namespace Sys2Proof

/-! ## Constants (R1) -/

/-- `MEM_SIZE`: bytes of `memory`, addresses 0..4095. -/
def Config.memSize : Nat := 4096

/-- `STACK_DEPTH`: return addresses the call stack holds. -/
def Config.stackDepth : Nat := 16

/-- `SCREEN_W`: columns of the screen. -/
def Config.screenW : Nat := 64

/-- `SCREEN_H`: rows of the screen. -/
def Config.screenH : Nat := 32

/-- `PROGRAM_BASE`: the initial `ip` and the address a ROM is loaded at. -/
def Config.programBase : Nat := 0x200

/-- `GLYPH_BASE`: the address of the glyph set. -/
def Config.glyphBase : Nat := 0x000

/-- `GLYPH_BYTES`: bytes of one glyph. -/
def Config.glyphBytes : Nat := 5

/-- `ROM_MAX`: the longest ROM a Load accepts. -/
def Config.romMax : Nat := 3584

/-! ## Open parameters (R2) -/

/-- `KEY_ID_POLICY`: what `Ex9E` and `ExA1` do when `Vx > 15` (R151, R152, D8). -/
inductive KeyIdPolicy
  | fault
  | mask4
  | notPressed
  deriving DecidableEq, Repr

/-- `GLYPH_ID_POLICY`: what `Fx29` does when `Vx > 15` (R132, D9). -/
inductive GlyphIdPolicy
  | fault
  | mask4
  | times5
  deriving DecidableEq, Repr

/-- `VF_ALIAS_POLICY`: what `8Fy4 8Fy5 8Fy6 8Fy7 8FyE` do (R14, D10). -/
inductive VfAliasPolicy
  | listedOrder
  | refuse
  deriving DecidableEq, Repr

/-- `KEY_PICK`: which pressed key `Fx0A` returns when several are pressed (R153, D12). -/
inductive KeyPick
  | any
  | lowest
  deriving DecidableEq, Repr

/-- The parameters of one machine (R2). A state carries them so that a statement about every state is about
every machine the spec admits; no step changes them. -/
structure Params where
  /-- `GLYPHS`: sixteen glyphs of five bytes, top row first. -/
  glyphs : Vector (Vector Byte 5) 16
  keyId : KeyIdPolicy
  glyphId : GlyphIdPolicy
  /-- `STRICT_LOW_NIBBLE`: whether `5xyN` and `9xyN` with `N` not 0 are invalid. -/
  strictLowNibble : Bool
  vfAlias : VfAliasPolicy
  keyPick : KeyPick
  deriving DecidableEq, Repr

/-- The default glyph set (R204, D15). -/
def Config.standardGlyphs : Vector (Vector Byte 5) 16 :=
  #v[#v[0xF0, 0x90, 0x90, 0x90, 0xF0], #v[0x20, 0x60, 0x20, 0x20, 0x70],
     #v[0xF0, 0x10, 0xF0, 0x80, 0xF0], #v[0xF0, 0x10, 0xF0, 0x10, 0xF0],
     #v[0x90, 0x90, 0xF0, 0x10, 0x10], #v[0xF0, 0x80, 0xF0, 0x10, 0xF0],
     #v[0xF0, 0x80, 0xF0, 0x90, 0xF0], #v[0xF0, 0x10, 0x20, 0x40, 0x40],
     #v[0xF0, 0x90, 0xF0, 0x90, 0xF0], #v[0xF0, 0x90, 0xF0, 0x10, 0xF0],
     #v[0xF0, 0x90, 0xF0, 0x90, 0x90], #v[0xE0, 0x90, 0xE0, 0x90, 0xE0],
     #v[0xF0, 0x80, 0x80, 0x80, 0xF0], #v[0xE0, 0x90, 0x90, 0x90, 0xE0],
     #v[0xF0, 0x80, 0xF0, 0x80, 0xF0], #v[0xF0, 0x80, 0xF0, 0x80, 0x80]]

/-- The defaults of R2. -/
def Config.standard : Params where
  glyphs := Config.standardGlyphs
  keyId := .fault
  glyphId := .fault
  strictLowNibble := true
  vfAlias := .listedOrder
  keyPick := .any

/-! ## Free values

`keys`, `rand` and the choice of `KEY_PICK = any` are inputs of a Cycle "under no law" (R121, R150, R153, R187).
A Cycle the host has scheduled carries them in its event; a Cycle nothing has scheduled takes these, applied to a
counter in the state (log entries 2 and 3). -/

/-- The key state of the `n`-th unscheduled Cycle. -/
opaque Config.freeKeys : Nat → BitVec 16

/-- The random byte of the `n`-th unscheduled Cycle. -/
opaque Config.freeRand : Nat → BitVec 8

/-- The `KEY_PICK = any` draw of the `n`-th unscheduled Cycle. -/
opaque Config.freePick : Nat → Nat

end Sys2Proof
end

