-- ==== Sys2Proof/Syntax.lean ====
section
/-! DEFINITION. The 34 instructions of spec/opcode_table.json (30_encoding.md R64), one constructor a row, in the
table's order. Operand fields are R61's `x`, `y`, `n`, `kk`, `nnn`. -/

namespace Sys2Proof

/-- An instruction. -/
inductive Instr
  /-- `00E0` CLS. -/
  | cls
  /-- `00EE` RET. -/
  | ret
  /-- `1nnn` JP nnn. -/
  | jp (nnn : Addr12)
  /-- `2nnn` CALL nnn. -/
  | call (nnn : Addr12)
  /-- `3xkk` SE Vx, kk. -/
  | seImm (x : RegNum) (kk : Byte)
  /-- `4xkk` SNE Vx, kk. -/
  | sneImm (x : RegNum) (kk : Byte)
  /-- `5xy0` SE Vx, Vy. -/
  | seReg (x y : RegNum)
  /-- `6xkk` LD Vx, kk. -/
  | ldImm (x : RegNum) (kk : Byte)
  /-- `7xkk` ADD Vx, kk. -/
  | addImm (x : RegNum) (kk : Byte)
  /-- `8xy0` LD Vx, Vy. -/
  | ldReg (x y : RegNum)
  /-- `8xy1` OR Vx, Vy. -/
  | orReg (x y : RegNum)
  /-- `8xy2` AND Vx, Vy. -/
  | andReg (x y : RegNum)
  /-- `8xy3` XOR Vx, Vy. -/
  | xorReg (x y : RegNum)
  /-- `8xy4` ADD Vx, Vy. -/
  | addReg (x y : RegNum)
  /-- `8xy5` SUB Vx, Vy. -/
  | subReg (x y : RegNum)
  /-- `8xy6` SHR Vx; `y` is decoded and ignored (R68). -/
  | shr (x y : RegNum)
  /-- `8xy7` SUBN Vx, Vy. -/
  | subnReg (x y : RegNum)
  /-- `8xyE` SHL Vx; `y` is decoded and ignored (R68). -/
  | shl (x y : RegNum)
  /-- `9xy0` SNE Vx, Vy. -/
  | sneReg (x y : RegNum)
  /-- `Annn` LD I, nnn. -/
  | ldI (nnn : Addr12)
  /-- `Bnnn` JP V0, nnn. -/
  | jpV0 (nnn : Addr12)
  /-- `Cxkk` RND Vx, kk. -/
  | rnd (x : RegNum) (kk : Byte)
  /-- `Dxyn` DRW Vx, Vy, n; `n` is the row count 0..15. -/
  | drw (x y : RegNum) (n : Nat)
  /-- `Ex9E` SKP Vx. -/
  | skp (x : RegNum)
  /-- `ExA1` SKNP Vx. -/
  | sknp (x : RegNum)
  /-- `Fx07` LD Vx, DT. -/
  | ldVxDT (x : RegNum)
  /-- `Fx0A` LD Vx, K. -/
  | ldVxK (x : RegNum)
  /-- `Fx15` LD DT, Vx. -/
  | ldDTVx (x : RegNum)
  /-- `Fx18` LD ST, Vx. -/
  | ldSTVx (x : RegNum)
  /-- `Fx1E` ADD I, Vx. -/
  | addIVx (x : RegNum)
  /-- `Fx29` LD F, Vx. -/
  | ldFVx (x : RegNum)
  /-- `Fx33` LD B, Vx. -/
  | ldBVx (x : RegNum)
  /-- `Fx55` LD [I], Vx. -/
  | ldMemVx (x : RegNum)
  /-- `Fx65` LD Vx, [I]. -/
  | ldVxMem (x : RegNum)
  deriving DecidableEq, Repr

end Sys2Proof
end

