-- ==== Sys2Proof/Machine/State.lean ====
section
/-! DEFINITION. The state: the twelve cells of spec 10_state.md section 1, the core's ports, the host events not
yet served, and the parameters. Plain data throughout. -/

namespace Sys2Proof.Machine

/-- The engine mode (R25): a run/pause switch the host owns, not a privilege level (R179). -/
inductive Mode
  | running
  | idle
  deriving DecidableEq, Repr

/-- A fault record, the contents of the `fault` latch (R26, R171): the constructor is the code, its argument the
`info` recorded. -/
inductive FaultRecord
  /-- Code 1: the word matches no row of the opcode map. -/
  | invalidOpcode (word : Word)
  /-- Code 2: `2nnn` with `sp = 16`. -/
  | stackOverflow
  /-- Code 3: `00EE` with `sp = 0`. -/
  | stackUnderflow
  /-- Code 4: a fetch with `ip > 4094`. -/
  | fetchOutOfRange (ip : Word)
  /-- Code 5: a data access that does not lie in `memory`. -/
  | dataOutOfRange (i : Word)
  /-- Code 6: `Ex9E` or `ExA1` with `Vx > 15` under `KEY_ID_POLICY = fault`. -/
  | keyIndexOutOfRange (v : Byte)
  /-- Code 7: `Fx29` with `Vx > 15` under `GLYPH_ID_POLICY = fault`. -/
  | glyphIndexOutOfRange (v : Byte)
  deriving DecidableEq, Repr

/-- Memory as the cells that do not hold the value an unlisted address reads as, by rising address. -/
abbrev Memory := List Host.Cell

/-- The screen as 32 rows of 64 one-bit pixels: cell `r*64 + c` of R23 is bit `c` of row `r`. -/
abbrev Screen := Vector (BitVec 64) 32

/-- What the host presents to one Cycle (R80, R185): the key state, the random byte, and the draw that
`KEY_PICK = any` takes (00_scope.md, glossary "Draw"). -/
structure CycleInput where
  keys : BitVec 16
  rand : Byte
  pick : Nat
  deriving DecidableEq, Repr

/-- The six host events, with what each carries (R80). -/
inductive Event
  | reset
  | load (rom : List Byte)
  | cycle (input : CycleInput)
  | tick
  | idle
  | resume
  deriving DecidableEq, Repr

/-- The state of the machine. -/
structure State where
  /-- `V[0..15]` (R10). -/
  v : Vector Byte 16
  /-- `I` (R18). -/
  i : Word
  /-- `ip` (R15). -/
  ip : Word
  /-- `stack[0..15]` (R19). -/
  stack : Vector Word 16
  /-- `sp`, the depth 0..16 (R19). -/
  sp : Fin 17
  /-- `delay` (R21). -/
  delay : Byte
  /-- `sound` (R21). -/
  sound : Byte
  /-- `memory[0..4095]` (R22). -/
  memory : Memory
  /-- `screen[0..2047]` (R23). -/
  screen : Screen
  /-- `opcode` (R24). -/
  opcode : Word
  /-- `mode` (R25). -/
  mode : Mode
  /-- `fault` (R26). -/
  fault : Option FaultRecord
  /-- The inputs at the ports during the last Cycle that fetched (R150, R187). -/
  inputs : CycleInput
  /-- The `draw_req` output of the last event (R144). -/
  drawReq : Bool
  /-- The `RomTooLarge` failure value of the last event (R178). -/
  loadError : Bool
  /-- Host events issued and not yet served, oldest first (R80). -/
  pending : List Event
  /-- How many Cycles took free inputs: the argument of the free values of Config. -/
  draws : Nat
  /-- The parameters of this machine (00_scope.md R2); no step changes them. -/
  params : Params
  deriving DecidableEq, Repr

/-- Why a step answers a fault. -/
inductive Fault
  /-- Raised by `step` when a Cycle, Tick, Idle or Resume comes to a machine whose `fault` latch holds a record:
  the spec gives such an event no step (R82, U15). Safe: the model stops where the spec gives no behaviour. -/
  | stopped (record : FaultRecord)
  deriving DecidableEq, Repr

/-- Why a step answers a refusal. -/
inductive Refusal
  /-- Raised by no arm of `exec`: every instruction has its meaning. Safe. -/
  | notModelled (mnemonic : String)
  /-- Raised by `8Fy4 8Fy5 8Fy6 8Fy7 8FyE` under `VF_ALIAS_POLICY = refuse` only, where the spec gives these forms
  no meaning (R14, U5). Safe. -/
  | flagRegisterAsDestination
  deriving DecidableEq, Repr

/-- The machine right after Reset (R29): every cell as the spec states, no host event issued, the ports quiet, the
parameters at their defaults (R2). -/
def State.reset : State where
  v := Vector.replicate 16 0
  i := 0
  ip := 0x200
  stack := Vector.replicate 16 0
  sp := 0
  delay := 0
  sound := 0
  memory := []
  screen := Vector.replicate 32 0
  opcode := 0
  mode := .running
  fault := none
  inputs := ⟨0, 0, 0⟩
  drawReq := false
  loadError := false
  pending := []
  draws := 0
  params := Config.standard

end Sys2Proof.Machine
end

