-- ==== Sys2Proof/Machine/Ops.lean ====
section
/-! DEFINITION. The named operations over memory, registers, the call stack, the screen and the fault latch that the
meanings are written in. -/

namespace Sys2Proof.Machine

/-! ## Memory (spec 20_memory.md) -/

/-- What an address no cell lists reads as: the reset contents (R22, R29). -/
def Memory.unlisted : Byte := 0

/-- `MemRead(addr, 1)` (R5). -/
def Memory.read : Memory → Nat → Byte
  | [], _ => Memory.unlisted
  | (a, b) :: m, k => if a = k then b else Memory.read m k

/-- `MemWrite(addr, 1, v)` (R5), keeping the canonical form. -/
def Memory.write : Memory → Nat → Byte → Memory
  | [], k, v => if v = Memory.unlisted then [] else [(k, v)]
  | (a, b) :: m, k, v =>
    if k < a then (if v = Memory.unlisted then (a, b) :: m else (k, v) :: (a, b) :: m)
    else if k = a then (if v = Memory.unlisted then m else (k, v) :: m)
    else (a, b) :: Memory.write m k v

/-- The `n` bytes at `a, a+1, ...` (R44). -/
def Memory.readBytes (m : Memory) (a : Nat) : Nat → List Byte
  | 0 => []
  | n + 1 => m.read a :: Memory.readBytes m (a + 1) n

/-- The bytes of the list at `a, a+1, ...` (R44). The addresses differ, so the order of the writes is not
observable; the last byte is written first. -/
def Memory.writeBytes (m : Memory) (a : Nat) : List Byte → Memory
  | [] => m
  | b :: bs => (Memory.writeBytes m (a + 1) bs).write a b

/-- The listed addresses rise strictly from at least `low`, lie in `memory` (R28), and no cell holds the unlisted
value. -/
def Memory.wfFrom : Nat → Memory → Bool
  | _, [] => true
  | low, (a, b) :: m =>
    decide (low ≤ a) && decide (a < Config.memSize) && decide (b ≠ Memory.unlisted) && Memory.wfFrom (a + 1) m

/-- The canonical form of memory. -/
def Memory.wf (m : Memory) : Bool := Memory.wfFrom 0 m

/-! ## Registers -/

/-- `V[x]` (R5). -/
def State.reg (s : State) (x : RegNum) : Byte := s.v[x]

/-- `V[x] <- b` (R5). -/
def State.setReg (s : State) (x : RegNum) (b : Byte) : State := { s with v := s.v.set x b }

/-- `I <- w` (R5). -/
def State.setI (s : State) (w : Word) : State := { s with i := w }

/-- `ip <- w` (R5). -/
def State.setIp (s : State) (w : Word) : State := { s with ip := w }

/-- `delay <- b` (R161). -/
def State.setDelay (s : State) (b : Byte) : State := { s with delay := b }

/-- `sound <- b` (R162). -/
def State.setSound (s : State) (b : Byte) : State := { s with sound := b }

/-- A skip on a condition: `ip <- (ip + 2) mod 65536` (41_control_flow.md section 2). -/
def State.skipIf (s : State) (c : Bool) : State := { s with ip := if c then s.ip + 2 else s.ip }

/-! ## Taking a fault (R170 to R176)

A fault is the machine's one exception. Nothing is saved but the record; `ip`, `sp` and `mode` stay as they are
and control goes nowhere. There is no return from a fault: only the events Reset and Load clear the latch
(Machine/Events.lean). -/

/-- `raise F(info)`: the latch takes the record and the Cycle ends (R173, R175). -/
def State.raise (s : State) (r : FaultRecord) : State := { s with fault := some r }

/-- The numeric code of a record (R171). -/
def FaultRecord.code : FaultRecord → Nat
  | .invalidOpcode _ => 1
  | .stackOverflow => 2
  | .stackUnderflow => 3
  | .fetchOutOfRange _ => 4
  | .dataOutOfRange _ => 5
  | .keyIndexOutOfRange _ => 6
  | .glyphIndexOutOfRange _ => 7

/-- The `info` of a record as 16 bits, a register byte widened; the stack faults record none (R171). -/
def FaultRecord.info : FaultRecord → Option Word
  | .invalidOpcode w => some w
  | .stackOverflow => none
  | .stackUnderflow => none
  | .fetchOutOfRange ip => some ip
  | .dataOutOfRange i => some i
  | .keyIndexOutOfRange v => some (v.setWidth 16)
  | .glyphIndexOutOfRange v => some (v.setWidth 16)

/-! ## Data access at `I` (R47, R136) -/

/-- The `count` bytes from `I` lie in `memory`; no bytes always do. The sum is on natural numbers, with no wrap
(R47). -/
def State.dataInRange (s : State) (count : Nat) : Bool :=
  decide (count = 0) || decide (s.i.toNat + count ≤ Config.memSize)

/-- An instruction that accesses `count` bytes from `I`: out of range it raises `DataOutOfRange(I)` and does
nothing else (R47). -/
def State.withData (s : State) (count : Nat) (body : State) : State :=
  if s.dataInRange count then body else s.raise (.dataOutOfRange s.i)

/-- Stores bytes at `I, I+1, ...` (R44, R136). -/
def State.storeAtI (s : State) (bs : List Byte) : State :=
  { s with memory := s.memory.writeBytes s.i.toNat bs }

/-- Reads `n` bytes at `I, I+1, ...` (R44, R136). -/
def State.loadAtI (s : State) (n : Nat) : List Byte := s.memory.readBytes s.i.toNat n

/-! ## The call stack (R19, R20) -/

/-- A call: pushes `ip` and jumps, or raises `StackOverflow` when the stack is full (R101). -/
def State.callTo (s : State) (target : Word) : State :=
  if h : s.sp.val < 16 then
    { s with stack := s.stack.set s.sp.val s.ip, sp := ⟨s.sp.val + 1, by omega⟩, ip := target }
  else s.raise .stackOverflow

/-- A return: pops into `ip`, or raises `StackUnderflow` when the stack is empty (R102). The popped slot keeps its
value (R20). -/
def State.returnFromCall (s : State) : State :=
  if h : 0 < s.sp.val then
    { s with ip := s.stack[s.sp.val - 1], sp := ⟨s.sp.val - 1, by omega⟩ }
  else s.raise .stackUnderflow

/-! ## The screen (R23) -/

/-- The cell index of column `c`, row `r`, each reduced (R5, R142). -/
def cellOf (c r : Nat) : Fin 2048 := ⟨(r % 32) * 64 + c % 64, by omega⟩

/-- `screen[k]`. -/
def Screen.cell (scr : Screen) (k : Fin 2048) : Bool := (scr[k.val / 64]).getLsbD (k.val % 64)

/-- `screen[k] <- screen[k] XOR 1`. -/
def Screen.flip (scr : Screen) (k : Fin 2048) : Screen :=
  scr.set (k.val / 64) (scr[k.val / 64] ^^^ BitVec.twoPow 64 (k.val % 64))

/-- Every cell 0 (R29, R140). -/
def Screen.blank : Screen := Vector.replicate 32 0

/-- `screen[k]` of a state. -/
def State.pixel (s : State) (k : Fin 2048) : Bool := s.screen.cell k

end Sys2Proof.Machine
end

