-- ==== Sys2Proof/Machine/Flags.lean ====
section
/-! DEFINITION. The flag computations (spec 10_state.md R12 to R14): `VF` is the one flag, and every condition is on
the values held before the instruction. -/

namespace Sys2Proof.Machine

/-- A flag as the byte `VF` takes, 0 or 1 (R12). -/
def flagByte (c : Bool) : Byte := if c then 1 else 0

/-- Carry out of `a + b` (R116). -/
def carryOut (a b : Byte) : Bool := decide (255 < a.toNat + b.toNat)

/-- No borrow in `a - b` (R117, R119). -/
def noBorrow (a b : Byte) : Bool := decide (b.toNat ≤ a.toNat)

/-- The bit a right shift loses (R118). -/
def lostRight (a : Byte) : Bool := a.getLsbD 0

/-- The bit a left shift loses (R120). -/
def lostLeft (a : Byte) : Bool := a.getLsbD 7

/-- `V[15] <- flag`. -/
def State.setFlag (s : State) (c : Bool) : State := s.setReg flagReg (flagByte c)

/-- The five flag-writing instructions with a destination `Vx`: under `VF_ALIAS_POLICY = refuse` the form that
names `VF` as `Vx` has no meaning (R14, D10). -/
def State.flagWriter (s : State) (x : RegNum) (body : State) : Host.Outcome State Fault Refusal :=
  if s.params.vfAlias = .refuse ∧ x = flagReg then .refused .flagRegisterAsDestination else .next body

end Sys2Proof.Machine
end

