-- ==== Sys2Proof/Machine/Operands.lean ====
section
/-! DEFINITION. The operand forms: widened immediates (spec 30_encoding.md R63), the register range `V[0..x]`,
decimal digits, key and glyph numbers under their policies, the pressed keys. -/

namespace Sys2Proof.Machine

/-- `zext_16` of an immediate address (R63). -/
def zextAddr (nnn : Addr12) : Word := nnn.setWidth 16

/-- `zext_16` of a register value (R5). -/
def zextByte (b : Byte) : Word := b.setWidth 16

/-- The values of `V[0..x]`, `V0` first (R134). -/
def State.regsUpTo (s : State) (x : RegNum) : List Byte := s.v.toList.take (x.val + 1)

/-- Writes consecutive registers from number `k` (R135). -/
def setRegsFrom (v : Vector Byte 16) (k : Nat) : List Byte → Vector Byte 16
  | [] => v
  | b :: bs => setRegsFrom (v.setIfInBounds k b) (k + 1) bs

/-- `V[0], V[1], ... <- bytes` (R135). -/
def State.setRegs (s : State) (bs : List Byte) : State := { s with v := setRegsFrom s.v 0 bs }

/-- The decimal digits of a byte: hundreds, tens, ones (R133). -/
def decimalDigits (b : Byte) : List Byte :=
  [BitVec.ofNat 8 (b.toNat / 100), BitVec.ofNat 8 (b.toNat / 10 % 10), BitVec.ofNat 8 (b.toNat % 10)]

/-- Whether key number `b` is pressed, or no answer where `KEY_ID_POLICY` faults (R151, R152). -/
def keyPressed (p : KeyIdPolicy) (keys : BitVec 16) (b : Byte) : Option Bool :=
  if b.toNat ≤ 15 then some (keys.getLsbD b.toNat)
  else match p with
    | .fault => none
    | .mask4 => some (keys.getLsbD (b.toNat % 16))
    | .notPressed => some false

/-- A skip when key `Vx` is in the wanted state (R151, R152). -/
def State.skipOnKey (s : State) (x : RegNum) (wanted : Bool) : State :=
  match keyPressed s.params.keyId s.inputs.keys (s.reg x) with
  | some p => s.skipIf (p == wanted)
  | none => s.raise (.keyIndexOutOfRange (s.reg x))

/-- The address of glyph `d` (R132, D29). -/
def glyphAddress (d : Nat) : Word := BitVec.ofNat 16 (Config.glyphBase + Config.glyphBytes * d)

/-- The glyph address `Fx29` computes from a register value, or none where `GLYPH_ID_POLICY` faults (R132). -/
def glyphOperand (p : GlyphIdPolicy) (b : Byte) : Option Word :=
  if b.toNat ≤ 15 then some (glyphAddress b.toNat)
  else match p with
    | .fault => none
    | .mask4 => some (glyphAddress (b.toNat % 16))
    | .times5 => some (BitVec.ofNat 16 (5 * b.toNat))

/-- The key numbers, in rising order (R150). -/
def keyNumbers : List (Fin 16) := [0, 1, 2, 3, 4, 5, 6, 7, 8, 9, 10, 11, 12, 13, 14, 15]

/-- The keys that are down, in rising order (R150). -/
def pressedKeys (keys : BitVec 16) : List (Fin 16) := keyNumbers.filter fun k => keys.getLsbD k.val

/-- The key `Fx0A` returns among the pressed ones, none when no key is down: the lowest, or the one the draw
names, counted round the list (R153, D12). -/
def pickKey (policy : KeyPick) (pick : Nat) : List (Fin 16) → Option (Fin 16)
  | [] => none
  | [k] => some k
  | k :: k' :: ks =>
    match policy with
    | .lowest => some k
    | .any => (k :: k' :: ks)[pick % (k :: k' :: ks).length]?

end Sys2Proof.Machine
end

