-- ==== Sys2Proof/Machine/Display.lean ====
section
/-! DEFINITION. The display instructions (spec 44_display.md). -/

namespace Sys2Proof.Machine

/-- One set sprite bit falling on cell `k`: the collision so far, then the XOR (R141, R143). -/
def blitPixel (acc : Screen × Bool) (k : Fin 2048) : Screen × Bool :=
  (acc.1.flip k, acc.2 || acc.1.cell k)

/-- The sprite columns, left to right. -/
def spriteColumns : List Nat := [0, 1, 2, 3, 4, 5, 6, 7]

/-- Sprite column `c` of the byte `b`: bit 7 is the leftmost pixel (R142, D13). -/
def spriteBit (b : Byte) (c : Nat) : Bool := b.getLsbD (7 - c)

/-- One sprite row: eight pixels from column `px` on screen row `py`, every coordinate reduced (R142, D14). -/
def blitRow (px py : Nat) (b : Byte) (acc : Screen × Bool) : Screen × Bool :=
  spriteColumns.foldl (fun acc c => if spriteBit b c then blitPixel acc (cellOf (px + c) py) else acc) acc

/-- The sprite rows, top to bottom (R141). -/
def blitRows (px py : Nat) : List Byte → Screen × Bool → Screen × Bool
  | [], acc => acc
  | b :: bs, acc => blitRows px (py + 1) bs (blitRow px py b acc)

/-- Draws the sprite rows at `(px, py)`: the screen, `VF` as the collision flag, and the redraw request (R141,
R144). -/
def State.drawSprite (s : State) (px py : Byte) (rows : List Byte) : State :=
  let r := blitRows px.toNat py.toNat rows (s.screen, false)
  { s with screen := r.1, v := s.v.set flagReg (flagByte r.2), drawReq := true }

/-- `00E0` (R140): no redraw request. -/
def execCls (s : State) : Host.Outcome State Fault Refusal :=
  .next { s with screen := Screen.blank }

/-- `Dxyn` (R141): the coordinates are read before `VF` is written. -/
def execDrw (x y : RegNum) (n : Nat) (s : State) : Host.Outcome State Fault Refusal :=
  .next (s.withData n (s.drawSprite (s.reg x) (s.reg y) (s.loadAtI n)))

end Sys2Proof.Machine
end

