-- ==== Sys2Proof/Machine/IndexMemory.lean ====
section
/-! DEFINITION. The address-register and memory instructions (spec 43_index_memory.md). -/

namespace Sys2Proof.Machine

/-- `Annn` (R130). -/
def execLdI (nnn : Addr12) (s : State) : Host.Outcome State Fault Refusal :=
  .next (s.setI (zextAddr nnn))

/-- `Fx1E` (R131). -/
def execAddIVx (x : RegNum) (s : State) : Host.Outcome State Fault Refusal :=
  .next (s.setI (s.i + zextByte (s.reg x)))

/-- `Fx29` under `GLYPH_ID_POLICY` (R132). -/
def State.pointAtGlyph (s : State) (x : RegNum) : State :=
  match glyphOperand s.params.glyphId (s.reg x) with
  | some a => s.setI a
  | none => s.raise (.glyphIndexOutOfRange (s.reg x))

/-- `Fx29` (R132). -/
def execLdFVx (x : RegNum) (s : State) : Host.Outcome State Fault Refusal :=
  .next (s.pointAtGlyph x)

/-- `Fx33` (R133). -/
def execLdBVx (x : RegNum) (s : State) : Host.Outcome State Fault Refusal :=
  .next (s.withData 3 (s.storeAtI (decimalDigits (s.reg x))))

/-- `Fx55` (R134). -/
def execLdMemVx (x : RegNum) (s : State) : Host.Outcome State Fault Refusal :=
  .next (s.withData (x.val + 1) (s.storeAtI (s.regsUpTo x)))

/-- `Fx65` (R135). -/
def execLdVxMem (x : RegNum) (s : State) : Host.Outcome State Fault Refusal :=
  .next (s.withData (x.val + 1) (s.setRegs (s.loadAtI (x.val + 1))))

end Sys2Proof.Machine
end

