-- ==== Sys2Proof/Machine/Keypad.lean ====
section
/-! DEFINITION. The keypad instructions (spec 45_keypad.md); `keys` is the input of this Cycle (R150). -/

namespace Sys2Proof.Machine

/-- `Ex9E` (R151). -/
def execSkp (x : RegNum) (s : State) : Host.Outcome State Fault Refusal :=
  .next (s.skipOnKey x true)

/-- `ExA1` (R152). -/
def execSknp (x : RegNum) (s : State) : Host.Outcome State Fault Refusal :=
  .next (s.skipOnKey x false)

/-- `Fx0A` with the key the input gives: no key down undoes the advance of `ip`, so the next Cycle fetches the same
instruction again (R153, D12). -/
def State.takeKey (s : State) (x : RegNum) : State :=
  match pickKey s.params.keyPick s.inputs.pick (pressedKeys s.inputs.keys) with
  | some k => s.setReg x (BitVec.ofNat 8 k.val)
  | none => s.setIp (s.ip - 2)

/-- `Fx0A` (R153). -/
def execLdVxK (x : RegNum) (s : State) : Host.Outcome State Fault Refusal :=
  .next (s.takeKey x)

end Sys2Proof.Machine
end

