-- ==== Sys2Proof/Machine/LoadAlu.lean ====
section
/-! DEFINITION. The register load and ALU instructions (spec 42_load_alu.md). Operands are read from the state before
the instruction; the writes are made in the order the rule lists them, so where both hit `VF` the later stands
(R14). -/

namespace Sys2Proof.Machine

/-- `6xkk` (R110). -/
def execLdImm (x : RegNum) (kk : Byte) (s : State) : Host.Outcome State Fault Refusal :=
  .next (s.setReg x kk)

/-- `7xkk` (R111). -/
def execAddImm (x : RegNum) (kk : Byte) (s : State) : Host.Outcome State Fault Refusal :=
  .next (s.setReg x (s.reg x + kk))

/-- `8xy0` (R112). -/
def execLdReg (x y : RegNum) (s : State) : Host.Outcome State Fault Refusal :=
  .next (s.setReg x (s.reg y))

/-- `8xy1` (R113). -/
def execOrReg (x y : RegNum) (s : State) : Host.Outcome State Fault Refusal :=
  .next (s.setReg x (s.reg x ||| s.reg y))

/-- `8xy2` (R114). -/
def execAndReg (x y : RegNum) (s : State) : Host.Outcome State Fault Refusal :=
  .next (s.setReg x (s.reg x &&& s.reg y))

/-- `8xy3` (R115). -/
def execXorReg (x y : RegNum) (s : State) : Host.Outcome State Fault Refusal :=
  .next (s.setReg x (s.reg x ^^^ s.reg y))

/-- `8xy4` (R116): the sum, then the carry. -/
def execAddReg (x y : RegNum) (s : State) : Host.Outcome State Fault Refusal :=
  s.flagWriter x ((s.setReg x (s.reg x + s.reg y)).setFlag (carryOut (s.reg x) (s.reg y)))

/-- `8xy5` (R117): the difference, then the flag. -/
def execSubReg (x y : RegNum) (s : State) : Host.Outcome State Fault Refusal :=
  s.flagWriter x ((s.setReg x (s.reg x - s.reg y)).setFlag (noBorrow (s.reg x) (s.reg y)))

/-- `8xy6` (R118): the flag, then the shifted value; `y` is ignored (R68). -/
def execShr (x _y : RegNum) (s : State) : Host.Outcome State Fault Refusal :=
  s.flagWriter x ((s.setFlag (lostRight (s.reg x))).setReg x (s.reg x >>> 1))

/-- `8xy7` (R119): the difference, then the flag. -/
def execSubnReg (x y : RegNum) (s : State) : Host.Outcome State Fault Refusal :=
  s.flagWriter x ((s.setReg x (s.reg y - s.reg x)).setFlag (noBorrow (s.reg y) (s.reg x)))

/-- `8xyE` (R120): the flag, then the shifted value; `y` is ignored (R68). -/
def execShl (x _y : RegNum) (s : State) : Host.Outcome State Fault Refusal :=
  s.flagWriter x ((s.setFlag (lostLeft (s.reg x))).setReg x (s.reg x <<< 1))

/-- `Cxkk` (R121): `rand` is the input of this Cycle. -/
def execRnd (x : RegNum) (kk : Byte) (s : State) : Host.Outcome State Fault Refusal :=
  .next (s.setReg x (s.inputs.rand &&& kk))

end Sys2Proof.Machine
end

