-- ==== Sys2Proof/Machine/Timers.lean ====
section
/-! DEFINITION. The timer instructions (spec 46_timers.md section 1). -/

namespace Sys2Proof.Machine

/-- `Fx07` (R160). -/
def execLdVxDT (x : RegNum) (s : State) : Host.Outcome State Fault Refusal :=
  .next (s.setReg x s.delay)

/-- `Fx15` (R161). -/
def execLdDTVx (x : RegNum) (s : State) : Host.Outcome State Fault Refusal :=
  .next (s.setDelay (s.reg x))

/-- `Fx18` (R162). -/
def execLdSTVx (x : RegNum) (s : State) : Host.Outcome State Fault Refusal :=
  .next (s.setSound (s.reg x))

end Sys2Proof.Machine
end

