-- ==== Sys2Proof/Machine/Events.lean ====
section
/-! DEFINITION. The host events other than Cycle (spec 40_engine_cycle.md R89 and R90, 46_timers.md R163,
70_reset_and_hazards.md R200 to R206) and the signal-level binding the spec offers (60_exceptions.md R186). -/

namespace Sys2Proof.Machine

/-- One timer's step: down by one, stopping at 0 (R163). -/
def countDown (b : Byte) : Byte := if b = 0 then 0 else b - 1

/-- The Tick event (R163). -/
def State.tickTimers (s : State) : State :=
  { s with delay := countDown s.delay, sound := countDown s.sound }

/-- The Idle event (R89). -/
def State.enterIdle (s : State) : State := { s with mode := .idle }

/-- The Resume event (R90). -/
def State.leaveIdle (s : State) : State := { s with mode := .running }

/-- The Reset event: every cell at its reset value (R200). What is not a cell of the machine stays: its
parameters, the host's further events, the ports and the counter of free inputs. -/
def State.resetCells (s : State) : State :=
  { State.reset with
    inputs := s.inputs, pending := s.pending, draws := s.draws, params := s.params }

/-- The bytes of the glyph set, glyph 0 first (R204, D29). -/
def glyphSet (p : Params) : List Byte := p.glyphs.toList.flatMap Vector.toList

/-- Memory after a Load: the glyph set at `GLYPH_BASE`, then the ROM at `PROGRAM_BASE` (R203). -/
def loadedMemory (p : Params) (rom : List Byte) : Memory :=
  (Memory.writeBytes [] Config.glyphBase (glyphSet p)).writeBytes Config.programBase rom

/-- The Load event (R203): a ROM that does not fit changes nothing and is reported (R178). -/
def State.loadRom (s : State) (rom : List Byte) : State :=
  if Config.memSize < rom.length + Config.programBase then { s with loadError := true }
  else { s.resetCells with memory := loadedMemory s.params rom }

/-! ## The signal-level binding (R186)

Offered by the spec for implementers; nothing else in the model depends on it. The inputs and the outputs stand here;
what one rising edge does is `State.onEdge` in Machine/Cycle.lean. The outputs `draw_req` and `load_error` are the
fields `drawReq` and `loadError`. -/

/-- The one-clock strobes at one rising edge, with the levels and the ROM that belong to them. -/
structure Strobes where
  rst : Bool
  loadReq : Option (List Byte)
  idleReq : Bool
  resumeReq : Bool
  tickReq : Bool
  cycleReq : Bool
  input : CycleInput
  deriving DecidableEq, Repr

/-- The events one edge serves, in the fixed order `rst, load_req, idle_req, resume_req, tick_req, cycle_req`. -/
def Strobes.events (w : Strobes) : List Event :=
  (if w.rst then [.reset] else [])
    ++ (match w.loadReq with | some rom => [.load rom] | none => [])
    ++ (if w.idleReq then [.idle] else [])
    ++ (if w.resumeReq then [.resume] else [])
    ++ (if w.tickReq then [.tick] else [])
    ++ (if w.cycleReq then [.cycle w.input] else [])

/-- The output `fault_valid`. -/
def State.faultValid (s : State) : Bool := s.fault.isSome

/-- The output `fault_code[2:0]`, 0 when the latch is empty. -/
def State.faultCode (s : State) : BitVec 3 :=
  match s.fault with
  | some r => BitVec.ofNat 3 r.code
  | none => 0

/-- The output `fault_info[15:0]`, where the latch records one. -/
def State.faultInfo (s : State) : Option Word := s.fault.bind FaultRecord.info

/-- The read port onto `screen`. -/
def State.screenPort (s : State) (k : Fin 2048) : Bool := s.pixel k

/-- The output `sound_active`. -/
def State.soundActive (s : State) : Bool := decide (s.sound ≠ 0)

end Sys2Proof.Machine
end

