-- ==== Sys2Proof/Machine/Cycle.lean ====
section
/-! DEFINITION. The Cycle (spec 40_engine_cycle.md R81 to R87), the serving of one host event (R80), and one rising
edge of the signal-level binding (60_exceptions.md R186). -/

namespace Sys2Proof.Machine

/-- The fetch can read both bytes (R46). -/
def State.fetchInRange (s : State) : Bool := decide (s.ip.toNat ≤ 4094)

/-- The word at `ip`, high byte at the lower address (R43, R83). -/
def State.fetchWord (s : State) : Word :=
  wordOfBytes (s.memory.read s.ip.toNat) (s.memory.read (s.ip.toNat + 1))

/-- Fetch and advance: the word is latched in `opcode`, then `ip` is advanced by 2 (R83, R84). -/
def State.fetched (s : State) : State := { s with opcode := s.fetchWord, ip := s.ip + 2 }

/-- Decode and execute (R85, R86). -/
def State.decodeAndExecute (s : State) : Host.Outcome State Fault Refusal :=
  match decodeWord s.params.strictLowNibble s.opcode with
  | .ok i => exec i s
  | .error _ => .next (s.raise (.invalidOpcode s.opcode))

/-- The Cycle of a machine whose `fault` latch is empty (R87). An idle Cycle samples no input (R81). -/
def State.cycle (s : State) (input : CycleInput) : Host.Outcome State Fault Refusal :=
  match s.mode with
  | .idle => .next s
  | .running =>
    if s.fetchInRange then State.decodeAndExecute { s.fetched with inputs := input }
    else .next (s.raise (.fetchOutOfRange s.ip))

/-- The output pulses belong to one event (R144, R186). -/
def State.clearOutputs (s : State) : State := { s with drawReq := false, loadError := false }

/-- An event that a faulted machine has no step for (R82). -/
def State.ifNoFault (s : State) (k : Host.Outcome State Fault Refusal) : Host.Outcome State Fault Refusal :=
  match s.fault with
  | none => k
  | some r => .fault (.stopped r)

/-- One host event, served whole (R80); Reset and Load are the ones a faulted machine takes (R82, R176). -/
def State.serve (s : State) : Event → Host.Outcome State Fault Refusal
  | .reset => .next s.clearOutputs.resetCells
  | .load rom => .next (s.clearOutputs.loadRom rom)
  | .cycle input => s.ifNoFault (s.clearOutputs.cycle input)
  | .tick => s.ifNoFault (.next s.clearOutputs.tickTimers)
  | .idle => s.ifNoFault (.next s.clearOutputs.enterIdle)
  | .resume => s.ifNoFault (.next s.clearOutputs.leaveIdle)

/-! ## One rising edge of the signal-level binding (R186) -/

/-- The pulses raised earlier on the same edge stay high until the next edge. -/
def State.keepPulses (before after : State) : State :=
  { after with
    drawReq := before.drawReq || after.drawReq
    loadError := before.loadError || after.loadError }

/-- One strobe served: a faulted machine takes Reset and Load and holds all state at any other (R82). -/
def State.serveStrobe (s : State) (e : Event) : Host.Outcome State Fault Refusal :=
  match s.serve e with
  | .next t => .next (s.keepPulses t)
  | .fault _ => .next s
  | .refused r => .refused r

/-- Strobes served as separate events, each seeing the state the previous one left. -/
def State.serveStrobes (s : State) : List Event → Host.Outcome State Fault Refusal
  | [] => .next s
  | e :: es =>
    match s.serveStrobe e with
    | .next t => t.serveStrobes es
    | .fault r => .fault r
    | .refused r => .refused r

/-- One rising edge: the pulses of the edge before end, and the strobes that are high are served in the fixed order.
Host events that were issued otherwise stay where they are. -/
def State.onEdge (s : State) (w : Strobes) : Host.Outcome State Fault Refusal :=
  s.clearOutputs.serveStrobes w.events

/-! ## The next event of a step -/

/-- The inputs of a Cycle that no host has scheduled: free values (R121, R150, R187). -/
def freeInput (n : Nat) : CycleInput :=
  { keys := Config.freeKeys n, rand := Config.freeRand n, pick := Config.freePick n }

/-- The event the next step serves: the oldest pending one, else a Cycle with free inputs (log entry 2). -/
def State.nextEvent (s : State) : Event :=
  match s.pending with
  | [] => .cycle (freeInput s.draws)
  | e :: _ => e

/-- The state with that event taken off the queue, or one more free input counted. -/
def State.popped (s : State) : State :=
  match s.pending with
  | [] => { s with draws := s.draws + 1 }
  | _ :: rest => { s with pending := rest }

/-- The next event is a Cycle. -/
def State.cycleIsNext (s : State) : Bool :=
  match s.nextEvent with
  | .cycle _ => true
  | .reset => false
  | .load _ => false
  | .tick => false
  | .idle => false
  | .resume => false

end Sys2Proof.Machine
end

