-- ==== Sys2Proof/Machine/Step.lean ====
section
/-! DEFINITION. One step of the machine: the oldest pending host event is served; when none is pending, a Cycle with
free inputs (spec 40_engine_cycle.md R80; log entry 2). -/

namespace Sys2Proof.Machine

/-- One step: one host event, served whole. -/
def step (s : State) : Host.Outcome State Fault Refusal := s.popped.serve s.nextEvent

/-- The state with a table word stored where the next Cycle fetches, and that Cycle the next event: the two bytes
at `ip`, high byte first (R43); `ip` back at the entry point if it could not fetch; no fault, mode running. -/
def State.withFetchWord (s : State) (nbits w : Nat) : State :=
  let ip := if s.fetchInRange then s.ip else 0x200
  { s with
    ip := ip
    memory := s.memory.writeBytes ip.toNat [highByte (tableWord nbits w), lowByte (tableWord nbits w)]
    mode := .running
    fault := none
    pending := if s.cycleIsNext then s.pending else .cycle s.inputs :: s.pending }

end Sys2Proof.Machine
end

