-- ==== Sys2Proof/Safety.lean ====
section
/-! DEFINITION. What a safe run is, and the words the statements are written in: frames, the invariant, which
instructions may write which cell and raise which fault. -/

namespace Sys2Proof.Machine

/-! ## Safe runs -/

/-- No fatal condition has been met (spec 60_exceptions.md R176): every claim about a program's run takes this as a
premise. -/
def State.safe (s : State) : Bool := decide (s.fault = none)

/-- The machine executes at its next Cycle: no fault, mode running (R83). -/
def State.executes (s : State) : Bool := decide (s.fault = none) && decide (s.mode = .running)

/-- The state every program starts from (R206, R208), whatever the parameters and the host events to come: a
successful Load of `rom` has just been served. -/
def State.launched (s : State) (rom : List Byte) : Prop :=
  rom.length ≤ Config.romMax ∧ ∃ s₀ : State, s = s₀.clearOutputs.loadRom rom

/-- The model's own end of a run (R92, D26): the word at `ip` is `1nnn` with `nnn = ip`. -/
def State.atSelfJump (s : State) : Bool :=
  s.fetchInRange && decide (s.fetchWord = 0x1000 + s.ip) && decide (s.ip.toNat < 4096)

/-! ## Frames -/

/-- Every byte of memory reads as before. -/
def SameBytes (s t : State) : Prop := ∀ a, t.memory.read a = s.memory.read a

/-- Every byte of memory outside the `n` addresses from `a` reads as before. -/
def SameBytesOutside (s t : State) (a n : Nat) : Prop :=
  ∀ k, k < a ∨ a + n ≤ k → t.memory.read k = s.memory.read k

/-- Register `x` holds `b`; every other register, every other cell and every byte of memory is as before. -/
def WritesRegister (s t : State) (x : RegNum) (b : Byte) : Prop :=
  t.reg x = b ∧ (∀ k, k ≠ x → t.reg k = s.reg k) ∧ t = { s with v := t.v } ∧ SameBytes s t

/-- Register `x` holds `b` and `VF` the flag; every other register, every other cell and every byte of memory is as
before. -/
def WritesRegisterAndFlag (s t : State) (x : RegNum) (b flag : Nat) : Prop :=
  (t.reg x).toNat = b ∧ (t.reg flagReg).toNat = flag ∧ (∀ k, k ≠ x → k ≠ flagReg → t.reg k = s.reg k) ∧
    t = { s with v := t.v } ∧ SameBytes s t

/-- `ip` holds `target`; everything else is as before. -/
def MovesIp (s t : State) (target : Nat) : Prop :=
  t.ip.toNat = target ∧ t = { s with ip := t.ip } ∧ SameBytes s t

/-- `I` holds `n`; everything else is as before. -/
def SetsI (s t : State) (n : Nat) : Prop := t.i.toNat = n ∧ t = { s with i := t.i } ∧ SameBytes s t

/-- The fault is recorded and nothing else changes (R175, decision D5). -/
def RaisesOnly (s t : State) (r : FaultRecord) : Prop := t = { s with fault := some r } ∧ SameBytes s t

/-- Every cell of Machine State is at the value the source states for a constructed machine (R29): memory, registers,
stack and screen zero, `sp`, `I`, the timers and `opcode` 0, `ip` 0x200. -/
def CellsAtReset (t : State) : Prop :=
  (∀ k, t.reg k = 0) ∧ (∀ k : Fin 16, t.stack[k] = 0) ∧ (∀ k, t.pixel k = false) ∧ (∀ a, t.memory.read a = 0) ∧
    t.sp = 0 ∧ t.ip = 0x200 ∧ t.i = 0 ∧ t.delay = 0 ∧ t.sound = 0 ∧ t.opcode = 0

/-- What address `a` reads as after `n` bytes, byte `k` being `byte k`, have been stored from `I` up. -/
def byteAfterStore (s : State) (n : Nat) (byte : Nat → Byte) (a : Nat) : Byte :=
  if s.i.toNat ≤ a ∧ a < s.i.toNat + n then byte (a - s.i.toNat) else s.memory.read a

/-- Decimal digit `k` of a byte, the hundreds first (R133). -/
def decimalDigit (b : Byte) (k : Nat) : Byte := BitVec.ofNat 8 (b.toNat / 10 ^ (2 - k) % 10)

/-! ## Encodings -/

/-- The word of `i` has the fixed bits `match` and `mask` of its rule's "Encoding" sentence and decodes to `i`. -/
def EncodedAs (i : Instr) (pattern mask : Word) : Prop :=
  encode i &&& mask = pattern ∧ ∀ strict, decodeWord strict (encode i) = .ok i

/-! ## Sprites -/

/-- Some set sprite bit of the `n` rows at `I`, drawn at `(px, py)`, falls on cell `k` (R141, R142): sprite row
`r`, sprite column `c`, bit `7 - c` of the byte at `I + r`. -/
def SpriteCovers (s : State) (px py n : Nat) (k : Fin 2048) : Prop :=
  ∃ r c, r < n ∧ c < 8 ∧ (s.memory.read (s.i.toNat + r)).getLsbD (7 - c) = true ∧
    k.val = ((py + r) % 32) * 64 + (px + c) % 64

/-! ## Which instruction may do what -/

/-- The instruction may write general register `k` (R11's write rows). -/
def mayWriteReg (i : Instr) (k : RegNum) : Bool :=
  match i with
  | .ldImm x _ | .addImm x _ | .ldReg x _ | .orReg x _ | .andReg x _ | .xorReg x _ | .rnd x _
  | .ldVxDT x | .ldVxK x => decide (k = x)
  | .addReg x _ | .subReg x _ | .shr x _ | .subnReg x _ | .shl x _ => decide (k = x) || decide (k = flagReg)
  | .drw _ _ _ => decide (k = flagReg)
  | .ldVxMem x => decide (k ≤ x)
  | .cls | .ret | .jp _ | .call _ | .seImm _ _ | .sneImm _ _ | .seReg _ _ | .sneReg _ _ | .ldI _
  | .jpV0 _ | .skp _ | .sknp _ | .ldDTVx _ | .ldSTVx _ | .addIVx _ | .ldFVx _ | .ldBVx _
  | .ldMemVx _ => false

/-- The instruction may raise the fault in its execute phase (R172). -/
def mayRaise (i : Instr) (r : FaultRecord) : Bool :=
  match i with
  | .call _ => decide (r = .stackOverflow)
  | .ret => decide (r = .stackUnderflow)
  | .drw _ _ _ | .ldBVx _ | .ldMemVx _ | .ldVxMem _ => decide (r.code = 5)
  | .skp _ | .sknp _ => decide (r.code = 6)
  | .ldFVx _ => decide (r.code = 7)
  | .cls | .jp _ | .seImm _ _ | .sneImm _ _ | .seReg _ _ | .ldImm _ _ | .addImm _ _ | .ldReg _ _
  | .orReg _ _ | .andReg _ _ | .xorReg _ _ | .addReg _ _ | .subReg _ _ | .shr _ _ | .subnReg _ _
  | .shl _ _ | .sneReg _ _ | .ldI _ | .jpV0 _ | .rnd _ _ | .ldVxDT _ | .ldVxK _ | .ldDTVx _
  | .ldSTVx _ | .addIVx _ => false

/-- The answer with a change made to its next state. -/
def mapNext (f : State → State) : Host.Outcome State Fault Refusal → Host.Outcome State Fault Refusal
  | .next s => .next (f s)
  | .fault r => .fault r
  | .refused r => .refused r

/-- The state with another random byte at the port. -/
def State.withRand (s : State) (b : Byte) : State := { s with inputs := { s.inputs with rand := b } }

/-- The state with another key state and another `KEY_PICK` draw at the port. -/
def State.withKeys (s : State) (keys : BitVec 16) (pick : Nat) : State :=
  { s with inputs := { s.inputs with keys := keys, pick := pick } }

/-! ## The invariant -/

/-- A record the `fault` latch can hold on a machine with these parameters: the condition of R171 holds of the
`info` recorded. -/
def FaultRecord.legal (p : Params) : FaultRecord → Prop
  | .invalidOpcode w => ∀ i, decodeWord p.strictLowNibble w ≠ .ok i
  | .stackOverflow => True
  | .stackUnderflow => True
  | .fetchOutOfRange ip => 4094 < ip.toNat
  | .dataOutOfRange i => 4096 < i.toNat + 16
  | .keyIndexOutOfRange v => 15 < v.toNat ∧ p.keyId = .fault
  | .glyphIndexOutOfRange v => 15 < v.toNat ∧ p.glyphId = .fault

/-- What holds after every event (R17, R28): memory is in canonical form and lies in 0..4095, `ip` never passes
0x10FE, every stacked address is at most 4096, and the latch holds a record whose condition is met. That every cell
is within its width and `sp` within 0..16 is in the types of State. -/
structure State.Inv (s : State) : Prop where
  memory : s.memory.wf = true
  ip : s.ip.toNat ≤ 0x10FE
  stack : ∀ k : Fin 16, (s.stack[k]).toNat ≤ 4096
  fault : ∀ r, s.fault = some r → r.legal s.params

end Sys2Proof.Machine
end

