-- ==== Sys2Proof/Certificates/Slice0/Obligations.lean ====
section
/-! DEFINITION. The statements for the provers. "The model's choice" in a docstring names a decision of the spec
(92_eei_decisions.md) or a log entry (notes/assumptions) the clause rests on. -/

open Sys2Proof Sys2Proof.Machine

/-! ## Decoding and encoding (30_encoding.md) -/

/-- Words written out from the encodings of R62 and R64 decode to the instructions they stand for. -/
def Obligations.SampleWordsDecode : Prop :=
  decodeWord true 0x00EE = .ok .ret ∧ decodeWord true 0x1234 = .ok (.jp 0x234) ∧
    decodeWord true 0x3A08 = .ok (.seImm 10 0x08) ∧ decodeWord true 0x8125 = .ok (.subReg 1 2) ∧
    decodeWord true 0xA300 = .ok (.ldI 0x300) ∧ decodeWord true 0xDFE9 = .ok (.drw 15 14 9) ∧
    decodeWord true 0xE2A1 = .ok (.sknp 2) ∧ decodeWord true 0xF333 = .ok (.ldBVx 3)

/-- Decoding an encoded well-formed instruction gives it back, every operand at every value, under either value of
STRICT_LOW_NIBBLE. -/
def Obligations.DecodeOfEncode : Prop :=
  ∀ (strict : Bool) (i : Instr), i.wellFormed = true → decodeWord strict (encode i) = .ok i

/-- A word that decodes is the encoding of the instruction it decodes to: no bit of a valid word is dropped, the
ignored `y` of `8xy6` and `8xyE` included. -/
def Obligations.EncodeOfDecode : Prop :=
  ∀ (w : Word) (i : Instr), decodeWord true w = .ok i → encode i = w

/-- R64: a word selects the instruction of the one row it matches; the 34 rows are disjoint. -/
def Obligations.DecoderFollowsOpcodeMap : Prop :=
  opcodeTable.length = 34 ∧
    (∀ (w : Word) (r r' : OpcodeRow), r ∈ opcodeTable → r' ∈ opcodeTable → r.matches w = true →
      r'.matches w = true → r = r') ∧
    (∀ (w : Word) (i : Instr), decodeWord true w = .ok i → i.row ∈ opcodeTable ∧ i.row.matches w = true) ∧
    (∀ (w : Word) (r : OpcodeRow), r ∈ opcodeTable → r.matches w = true → ∃ i, decodeWord true w = .ok i ∧ i.row = r)

/-- R67: a 0x0-prefixed word other than 0x00E0 and 0x00EE is invalid, never a jump. -/
def Obligations.ZeroFormatIsNeverAJump : Prop :=
  ∀ (strict : Bool) (w : Word), opField w = 0 → w ≠ 0x00E0 → w ≠ 0x00EE →
    decodeWord strict w = .error (.invalidOpcode w)

/-- `5xyN` and `9xyN` with `N` not 0: invalid under STRICT_LOW_NIBBLE, else decoded as `5xy0` and `9xy0` (the model's
choice: decision D11). -/
def Obligations.LowNibblePolicyDecides : Prop :=
  ∀ (x y : RegNum) (n : BitVec 4), n ≠ 0 →
    decodeWord true (encodeXYN 0x5 x y n) = .error (.invalidOpcode (encodeXYN 0x5 x y n)) ∧
      decodeWord true (encodeXYN 0x9 x y n) = .error (.invalidOpcode (encodeXYN 0x9 x y n)) ∧
      decodeWord false (encodeXYN 0x5 x y n) = .ok (.seReg x y) ∧
      decodeWord false (encodeXYN 0x9 x y n) = .ok (.sneReg x y)

/-! ## The Cycle and the events (40_engine_cycle.md, 46_timers.md, 70_reset_and_hazards.md) -/

/-- R43, R83 to R86: a Cycle of a running machine runs the instruction that the two bytes at `ip` decode to, on the
state with the word latched and `ip` advanced; a scheduled Cycle gives it the event's inputs, an unscheduled one free
values (the model's choice: log entry 2). -/
def Obligations.StepRunsTheDecodedInstruction : Prop :=
  ∀ (s : State) (i : Instr), s.fault = none → s.mode = .running → s.ip.toNat ≤ 4094 →
    decodeWord s.params.strictLowNibble
      (wordOfBytes (s.memory.read s.ip.toNat) (s.memory.read (s.ip.toNat + 1))) = .ok i →
    (∀ input rest, s.pending = .cycle input :: rest →
      step s = exec i { s with
        opcode := wordOfBytes (s.memory.read s.ip.toNat) (s.memory.read (s.ip.toNat + 1)), ip := s.ip + 2,
        inputs := input, pending := rest, drawReq := false, loadError := false }) ∧
    (s.pending = [] →
      step s = exec i { s with
        opcode := wordOfBytes (s.memory.read s.ip.toNat) (s.memory.read (s.ip.toNat + 1)), ip := s.ip + 2,
        inputs := freeInput s.draws, draws := s.draws + 1, drawReq := false, loadError := false })

/-- R66: a word that matches no row raises InvalidOpcode at the decode phase, after `opcode` has been latched and
`ip` advanced. -/
def Obligations.InvalidWordFaultsAfterTheAdvance : Prop :=
  ∀ (s : State) (input : CycleInput) (rest : List Event) (w : Word), s.fault = none → s.mode = .running →
    s.ip.toNat ≤ 4094 → s.pending = .cycle input :: rest → s.params.strictLowNibble = true →
    w = wordOfBytes (s.memory.read s.ip.toNat) (s.memory.read (s.ip.toNat + 1)) →
    (∀ r ∈ opcodeTable, r.matches w = false) →
    ∃ t, step s = .next t ∧ t.fault = some (.invalidOpcode w) ∧ t.opcode = w ∧ t.ip.toNat = s.ip.toNat + 2 ∧
      t = { s with fault := t.fault, opcode := t.opcode, ip := t.ip, inputs := t.inputs, pending := rest,
                   drawReq := false, loadError := false }

/-- A fetch with `ip` above 4094 raises FetchOutOfRange(ip) and changes nothing else, `opcode` included (the model's
choice: decisions D5 and D6). -/
def Obligations.FetchOutOfRangeChangesNothing : Prop :=
  ∀ (s : State) (input : CycleInput) (rest : List Event), s.fault = none → s.mode = .running →
    4094 < s.ip.toNat → s.pending = .cycle input :: rest →
    step s = .next { s with fault := some (.fetchOutOfRange s.ip), pending := rest, drawReq := false,
                            loadError := false }

/-- R81: a Cycle in mode idle changes no cell, samples no input and asks for no redraw; any number of Cycles and
Ticks in mode idle leave every cell but `delay` and `sound` unchanged. -/
def Obligations.IdleCyclesChangeNothing : Prop :=
  (∀ (s : State) (input : CycleInput) (rest : List Event), s.fault = none → s.mode = .idle →
    s.pending = .cycle input :: rest →
    step s = .next { s with pending := rest, drawReq := false, loadError := false }) ∧
  (∀ (s : State) (events : List Event), s.fault = none → s.mode = .idle → s.pending = events →
    (∀ e ∈ events, e = .tick ∨ ∃ input, e = .cycle input) →
    ∃ t : State, core.run events.length s = .next t ∧
      t = { s with delay := t.delay, sound := t.sound, pending := [], drawReq := t.drawReq,
                   loadError := t.loadError })

/-- R163: a Tick decrements each timer that is above 0 and changes nothing else, in either mode. -/
def Obligations.TickDecrementsBothTimers : Prop :=
  ∀ (s : State) (rest : List Event), s.fault = none → s.pending = .tick :: rest →
    ∃ t : State, step s = .next t ∧ t.delay.toNat = s.delay.toNat - 1 ∧ t.sound.toNat = s.sound.toNat - 1 ∧
      t = { s with delay := t.delay, sound := t.sound, pending := rest, drawReq := false, loadError := false }

/-- R164: after `k` Ticks a timer holds what it held less `k`, and 0 from then on; so a timer written with `v` is 0
after `v` Ticks and not before. -/
def Obligations.TimerReachesZeroAfterItsCount : Prop :=
  ∀ (s : State) (k : Nat) (rest : List Event), s.fault = none → s.pending = List.replicate k .tick ++ rest →
    ∃ t : State, core.run k s = .next t ∧ t.delay.toNat = s.delay.toNat - k ∧ t.sound.toNat = s.sound.toNat - k ∧
      t.pending = rest ∧ (t.delay = 0 ↔ s.delay.toNat ≤ k)

/-- R89, R90: Idle and Resume write `mode` and nothing else, whatever the mode was (idempotent by decision D21). -/
def Obligations.IdleAndResumeWriteModeOnly : Prop :=
  ∀ (s : State) (rest : List Event), s.fault = none →
    (s.pending = .idle :: rest →
      step s = .next { s with mode := .idle, pending := rest, drawReq := false, loadError := false }) ∧
    (s.pending = .resume :: rest →
      step s = .next { s with mode := .running, pending := rest, drawReq := false, loadError := false })

/-- A machine whose fault latch is set has no step for a Cycle, a Tick, an Idle or a Resume, scheduled or not (the
model's choice: decision D4, log entry 5). -/
def Obligations.FaultedMachineHasNoStep : Prop :=
  ∀ (s : State) (r : FaultRecord), s.fault = some r →
    (∀ rom, s.nextEvent ≠ .load rom) → s.nextEvent ≠ .reset → step s = .fault (.stopped r)

/-- The Reset event puts every cell at its reset value from any state, a faulted one included, and the state after
reset holds those values; mode running and fault none are the model's choice (decisions D3 and D4). -/
def Obligations.ResetReachesTheStatedValues : Prop :=
  (CellsAtReset State.reset ∧ State.reset.mode = .running ∧ State.reset.fault = none) ∧
  ∀ (s : State) (rest : List Event), s.pending = .reset :: rest →
    ∃ t : State, step s = .next t ∧ CellsAtReset t ∧ t.mode = .running ∧ t.fault = none ∧ t.drawReq = false ∧
      t.loadError = false ∧ t.pending = rest ∧ t.params = s.params

/-- A Load of a ROM that fits: the glyph set at 0x000, the ROM at 0x200, zero elsewhere, every other cell at its
reset value (the glyph order is decision D29; mode and fault are decision D3). -/
def Obligations.LoadPlacesGlyphsAndRom : Prop :=
  ∀ (s : State) (rom : List Byte) (rest : List Event), s.pending = .load rom :: rest → rom.length ≤ 3584 →
    ∃ t : State, step s = .next t ∧
      (∀ (d : Fin 16) (j : Fin 5), t.memory.read (5 * d.val + j.val) = (s.params.glyphs[d])[j]) ∧
      (∀ k b, rom[k]? = some b → t.memory.read (0x200 + k) = b) ∧
      (∀ a, 80 ≤ a → (a < 0x200 ∨ 0x200 + rom.length ≤ a) → t.memory.read a = 0) ∧
      (∀ k, t.reg k = 0) ∧ (∀ k : Fin 16, t.stack[k] = 0) ∧ (∀ k, t.pixel k = false) ∧ t.sp = 0 ∧
      t.ip = 0x200 ∧ t.i = 0 ∧ t.delay = 0 ∧ t.sound = 0 ∧ t.opcode = 0 ∧ t.mode = .running ∧ t.fault = none ∧
      t.loadError = false ∧ t.pending = rest ∧ t.params = s.params

/-- R178: a Load of a ROM that does not fit fails before any memory is changed and leaves every cell, the fault latch
included, as it was. -/
def Obligations.OversizedRomLeavesEveryCell : Prop :=
  ∀ (s : State) (rom : List Byte) (rest : List Event), s.pending = .load rom :: rest →
    4096 < rom.length + 0x200 →
    step s = .next { s with pending := rest, drawReq := false, loadError := true }

/-- R91: no instruction enters or leaves idle mode and a fault does not change it; only host events do. -/
def Obligations.OnlyHostEventsChangeMode : Prop :=
  (∀ (i : Instr) (s t : State), exec i s = .next t → t.mode = s.mode) ∧
  (∀ (s t : State), step s = .next t → t.mode ≠ s.mode →
    (t.mode = .idle ∧ s.nextEvent = .idle) ∨
      (t.mode = .running ∧ (s.nextEvent = .resume ∨ s.nextEvent = .reset ∨ ∃ rom, s.nextEvent = .load rom)))

/-- A jump to itself stops the program: the Cycle leaves every cell but `opcode` unchanged (the model's end of a run:
decision D26, log entry 10). -/
def Obligations.SelfJumpChangesOnlyOpcode : Prop :=
  ∀ (s : State) (input : CycleInput) (rest : List Event), s.fault = none → s.mode = .running →
    s.atSelfJump = true → s.pending = .cycle input :: rest →
    ∃ t : State, step s = .next t ∧
      t = { s with opcode := t.opcode, inputs := input, pending := rest, drawReq := false, loadError := false }

/-! ## Control transfer (41_control_flow.md) -/

/-- R100, R107: `1nnn` sets `ip` to `nnn`, `Bnnn` to `V0 + nnn` without reduction, and nothing else changes. -/
def Obligations.JumpsSetIp : Prop :=
  ∀ (s : State) (nnn : Addr12),
    (EncodedAs (.jp nnn) 0x1000 0xF000 ∧ ∃ t, exec (.jp nnn) s = .next t ∧ MovesIp s t nnn.toNat) ∧
      (EncodedAs (.jpV0 nnn) 0xB000 0xF000 ∧
        ∃ t, exec (.jpV0 nnn) s = .next t ∧ MovesIp s t ((s.reg 0).toNat + nnn.toNat))

/-- R103, R104: `3xkk` and `4xkk` add 2 to `ip` when `Vx` equals, or does not equal, `kk`. -/
def Obligations.ImmediateSkips : Prop :=
  ∀ (s : State) (x : RegNum) (kk : Byte),
    (EncodedAs (.seImm x kk) 0x3000 0xF000 ∧ ∃ t, exec (.seImm x kk) s = .next t ∧
      MovesIp s t (if s.reg x = kk then (s.ip.toNat + 2) % 65536 else s.ip.toNat)) ∧
    (EncodedAs (.sneImm x kk) 0x4000 0xF000 ∧ ∃ t, exec (.sneImm x kk) s = .next t ∧
      MovesIp s t (if s.reg x = kk then s.ip.toNat else (s.ip.toNat + 2) % 65536))

/-- R105, R106: `5xy0` and `9xy0` add 2 to `ip` when `Vx` equals, or does not equal, `Vy`. -/
def Obligations.RegisterSkips : Prop :=
  ∀ (s : State) (x y : RegNum),
    (∃ t, exec (.seReg x y) s = .next t ∧
      MovesIp s t (if s.reg x = s.reg y then (s.ip.toNat + 2) % 65536 else s.ip.toNat)) ∧
    (∃ t, exec (.sneReg x y) s = .next t ∧
      MovesIp s t (if s.reg x = s.reg y then s.ip.toNat else (s.ip.toNat + 2) % 65536))

/-- R101, R102: `2nnn` with room on the stack pushes the advanced `ip` in the slot `sp` names, increments `sp` and
jumps; `00EE` with an address on the stack pops it into `ip` and the slot keeps its value (slot use is decision
D16). -/
def Obligations.CallPushesAndReturnPops : Prop :=
  ∀ (s : State) (nnn : Addr12),
    (s.sp ≠ 16 →
      ∃ t, exec (.call nnn) s = .next t ∧ t.ip.toNat = nnn.toNat ∧ t.sp.val = s.sp.val + 1 ∧
        t.stack[s.sp.val]? = some s.ip ∧ (∀ k, k ≠ s.sp.val → t.stack[k]? = s.stack[k]?) ∧
        t = { s with ip := t.ip, sp := t.sp, stack := t.stack } ∧ SameBytes s t) ∧
    (s.sp ≠ 0 →
      ∃ t, exec .ret s = .next t ∧ s.stack[s.sp.val - 1]? = some t.ip ∧ t.sp.val + 1 = s.sp.val ∧
        t = { s with ip := t.ip, sp := t.sp } ∧ SameBytes s t)

/-- R101, R102: a call on a full stack and a return on an empty one record their fault and change nothing else (the
recorded form is decision D4, the state left decision D5). -/
def Obligations.StackFaultsAtTheEnds : Prop :=
  ∀ (s : State) (nnn : Addr12),
    (s.sp = 16 → ∃ t, exec (.call nnn) s = .next t ∧ RaisesOnly s t .stackOverflow) ∧
      (s.sp = 0 → ∃ t, exec .ret s = .next t ∧ RaisesOnly s t .stackUnderflow)

/-- R102's property: a return, from any state that holds the stack a call left, restores the `ip` and the depth the
call had. -/
def Obligations.CallThenReturnRestoresIp : Prop :=
  ∀ (s t u : State) (nnn : Addr12), s.sp ≠ 16 → exec (.call nnn) s = .next t → u.stack = t.stack → u.sp = t.sp →
    ∃ r, exec .ret u = .next r ∧ r.ip = s.ip ∧ r.sp = s.sp

/-! ## Register load and ALU (42_load_alu.md) -/

/-- R110, R112, R114, R115: the loads, AND and XOR write `Vx` and nothing else. That AND and XOR leave `VF`, unless `x`
is F, is an inference the spec marks as its own (R13; log entry 25). -/
def Obligations.LoadsAndLogicalsWriteVxOnly : Prop :=
  ∀ (s : State) (x y : RegNum) (kk : Byte),
    (EncodedAs (.ldImm x kk) 0x6000 0xF000 ∧ ∃ t, exec (.ldImm x kk) s = .next t ∧ WritesRegister s t x kk) ∧
      (EncodedAs (.ldReg x y) 0x8000 0xF00F ∧
        ∃ t, exec (.ldReg x y) s = .next t ∧ WritesRegister s t x (s.reg y)) ∧
      (EncodedAs (.andReg x y) 0x8002 0xF00F ∧
        ∃ t, exec (.andReg x y) s = .next t ∧ WritesRegister s t x (s.reg x &&& s.reg y)) ∧
      (EncodedAs (.xorReg x y) 0x8003 0xF00F ∧
        ∃ t, exec (.xorReg x y) s = .next t ∧ WritesRegister s t x (s.reg x ^^^ s.reg y))

/-- R113: OR writes `Vx` and leaves `VF`, unless `x` is F (an inference the spec marks as its own; log entry 25). -/
def Obligations.OrWritesVxOnly : Prop :=
  ∀ (s : State) (x y : RegNum),
    ∃ t, exec (.orReg x y) s = .next t ∧ WritesRegister s t x (s.reg x ||| s.reg y)

/-- R111: `7xkk` adds modulo 256 and writes no flag. -/
def Obligations.AddImmediateWrapsWithoutFlag : Prop :=
  ∀ (s : State) (x : RegNum) (kk : Byte), EncodedAs (.addImm x kk) 0x7000 0xF000 ∧
    ∃ t, exec (.addImm x kk) s = .next t ∧
      WritesRegister s t x (BitVec.ofNat 8 (((s.reg x).toNat + kk.toNat) % 256))

/-- R116 for `x` other than F: the sum modulo 256 in `Vx`, the carry in `VF`. -/
def Obligations.AddSetsCarry : Prop :=
  ∀ (s : State) (x y : RegNum), x ≠ flagReg →
    ∃ t, exec (.addReg x y) s = .next t ∧
      WritesRegisterAndFlag s t x (((s.reg x).toNat + (s.reg y).toNat) % 256)
        (if 255 < (s.reg x).toNat + (s.reg y).toNat then 1 else 0)

/-- R117, R119 for `x` other than F: the difference modulo 256 in `Vx`, 1 in `VF` exactly when there is no
borrow. -/
def Obligations.SubtractionsSetNoBorrow : Prop :=
  ∀ (s : State) (x y : RegNum), x ≠ flagReg →
    (∃ t, exec (.subReg x y) s = .next t ∧
      WritesRegisterAndFlag s t x (((s.reg x).toNat + 256 - (s.reg y).toNat) % 256)
        (if (s.reg y).toNat ≤ (s.reg x).toNat then 1 else 0)) ∧
    (∃ t, exec (.subnReg x y) s = .next t ∧
      WritesRegisterAndFlag s t x (((s.reg y).toNat + 256 - (s.reg x).toNat) % 256)
        (if (s.reg x).toNat ≤ (s.reg y).toNat then 1 else 0))

/-- R118, R120 for `x` other than F: `Vx` halved or doubled modulo 256, the lost bit in `VF`, whatever `y` is. -/
def Obligations.ShiftsReportTheLostBit : Prop :=
  ∀ (s : State) (x y : RegNum), x ≠ flagReg →
    (∃ t, exec (.shr x y) s = .next t ∧
      WritesRegisterAndFlag s t x ((s.reg x).toNat / 2) ((s.reg x).toNat % 2)) ∧
    (∃ t, exec (.shl x y) s = .next t ∧
      WritesRegisterAndFlag s t x (2 * (s.reg x).toNat % 256) ((s.reg x).toNat / 128))

/-- `VF` as the destination of a flag-writing instruction (the model's choice: decision D10, log entry 4): under
listed_order the later write stands, the flag for `8Fy4 8Fy5 8Fy7` and the shifted value for `8Fy6 8FyE`; under
refuse the five forms have no meaning. -/
def Obligations.FlagRegisterAsDestination : Prop :=
  ∀ (s : State) (y : RegNum),
    (s.params.vfAlias = .listedOrder →
      (∃ t, exec (.addReg flagReg y) s = .next t ∧ WritesRegister s t flagReg
        (if 255 < (s.reg flagReg).toNat + (s.reg y).toNat then 1 else 0)) ∧
      (∃ t, exec (.subReg flagReg y) s = .next t ∧ WritesRegister s t flagReg
        (if (s.reg y).toNat ≤ (s.reg flagReg).toNat then 1 else 0)) ∧
      (∃ t, exec (.subnReg flagReg y) s = .next t ∧ WritesRegister s t flagReg
        (if (s.reg flagReg).toNat ≤ (s.reg y).toNat then 1 else 0)) ∧
      (∃ t, exec (.shr flagReg y) s = .next t ∧ WritesRegister s t flagReg
        (BitVec.ofNat 8 ((s.reg flagReg).toNat / 2))) ∧
      (∃ t, exec (.shl flagReg y) s = .next t ∧ WritesRegister s t flagReg
        (BitVec.ofNat 8 (2 * (s.reg flagReg).toNat % 256)))) ∧
    (s.params.vfAlias = .refuse →
      ∀ i ∈ [Instr.addReg flagReg y, .subReg flagReg y, .shr flagReg y, .subnReg flagReg y, .shl flagReg y],
        exec i s = .refused .flagRegisterAsDestination)

/-- R121: `Cxkk` writes the random byte of this Cycle, masked by `kk`. -/
def Obligations.RandomByteIsMasked : Prop :=
  ∀ (s : State) (x : RegNum) (kk : Byte),
    ∃ t, exec (.rnd x kk) s = .next t ∧ WritesRegister s t x (s.inputs.rand &&& kk)

/-! ## Address register and memory (43_index_memory.md, 20_memory.md) -/

/-- R130: `Annn` sets `I` to `nnn` and changes nothing else. -/
def Obligations.LoadAddressSetsI : Prop :=
  ∀ (s : State) (nnn : Addr12), EncodedAs (.ldI nnn) 0xA000 0xF000 ∧
    ∃ t, exec (.ldI nnn) s = .next t ∧ SetsI s t nnn.toNat

/-- R131: `Fx1E` adds `Vx` to `I` modulo 65536 and writes no flag (the flag part is an inference the spec marks as its
own; log entry 25). -/
def Obligations.AddToIWrapsAt65536 : Prop :=
  ∀ (s : State) (x : RegNum),
    ∃ t, exec (.addIVx x) s = .next t ∧ SetsI s t ((s.i.toNat + (s.reg x).toNat) % 65536)

/-- R132: `Fx29` sets `I` to the address of the glyph (its order is decision D29); above 15 the parameter
GLYPH_ID_POLICY decides (decision D9, log entry 7). -/
def Obligations.GlyphAddressIsFiveTimesTheDigit : Prop :=
  ∀ (s : State) (x : RegNum),
    ((s.reg x).toNat ≤ 15 → ∃ t, exec (.ldFVx x) s = .next t ∧ SetsI s t (5 * (s.reg x).toNat)) ∧
    (15 < (s.reg x).toNat →
      (s.params.glyphId = .fault →
        ∃ t, exec (.ldFVx x) s = .next t ∧ RaisesOnly s t (.glyphIndexOutOfRange (s.reg x))) ∧
      (s.params.glyphId = .mask4 →
        ∃ t, exec (.ldFVx x) s = .next t ∧ SetsI s t (5 * ((s.reg x).toNat % 16))) ∧
      (s.params.glyphId = .times5 →
        ∃ t, exec (.ldFVx x) s = .next t ∧ SetsI s t (5 * (s.reg x).toNat)))

/-- R133: `Fx33` in range stores the three decimal digits of `Vx` at `I`, `I+1`, `I+2` and changes nothing else. -/
def Obligations.DecimalDigitsAreStored : Prop :=
  ∀ (s : State) (x : RegNum), s.memory.wf = true → s.i.toNat + 2 ≤ 4095 →
    ∃ t, exec (.ldBVx x) s = .next t ∧
      (t.memory.read s.i.toNat).toNat = (s.reg x).toNat / 100 ∧
      (t.memory.read (s.i.toNat + 1)).toNat = (s.reg x).toNat / 10 % 10 ∧
      (t.memory.read (s.i.toNat + 2)).toNat = (s.reg x).toNat % 10 ∧
      SameBytesOutside s t s.i.toNat 3 ∧ t = { s with memory := t.memory }

/-- R134: `Fx55` in range stores `V0..Vx` at `I, I+1, ...` and changes nothing else, `I` included. -/
def Obligations.RegistersAreStored : Prop :=
  ∀ (s : State) (x : RegNum), s.memory.wf = true → s.i.toNat + x.val ≤ 4095 →
    ∃ t, exec (.ldMemVx x) s = .next t ∧ (∀ k, k ≤ x → t.memory.read (s.i.toNat + k.val) = s.reg k) ∧
      SameBytesOutside s t s.i.toNat (x.val + 1) ∧ t = { s with memory := t.memory }

/-- R135: `Fx65` in range loads `V0..Vx` from `I, I+1, ...` and changes nothing else, `I` included. -/
def Obligations.RegistersAreLoaded : Prop :=
  ∀ (s : State) (x : RegNum), s.i.toNat + x.val ≤ 4095 →
    ∃ t, exec (.ldVxMem x) s = .next t ∧ (∀ k, k ≤ x → t.reg k = s.memory.read (s.i.toNat + k.val)) ∧
      (∀ k, x < k → t.reg k = s.reg k) ∧ t = { s with v := t.v } ∧ SameBytes s t

/-- R47: a data access that does not lie in memory raises DataOutOfRange(I) and changes nothing else, for every
instruction that accesses data (the model's choice: decisions D5 and D7). -/
def Obligations.DataOutOfRangeChangesNothing : Prop :=
  ∀ (s : State) (x y : RegNum) (n : Nat),
    (4095 < s.i.toNat + 2 → ∃ t, exec (.ldBVx x) s = .next t ∧ RaisesOnly s t (.dataOutOfRange s.i)) ∧
      (4095 < s.i.toNat + x.val → ∃ t, exec (.ldMemVx x) s = .next t ∧ RaisesOnly s t (.dataOutOfRange s.i)) ∧
      (4095 < s.i.toNat + x.val → ∃ t, exec (.ldVxMem x) s = .next t ∧ RaisesOnly s t (.dataOutOfRange s.i)) ∧
      (0 < n → 4095 < s.i.toNat + n - 1 →
        ∃ t, exec (.drw x y n) s = .next t ∧ RaisesOnly s t (.dataOutOfRange s.i))

/-- R135's property: the registers stored by `Fx55` come back by `Fx65`, from any state that holds the memory and
the `I` the store left. -/
def Obligations.StoreThenLoadRestoresRegisters : Prop :=
  ∀ (s t u : State) (x : RegNum), s.memory.wf = true → s.i.toNat + x.val ≤ 4095 →
    exec (.ldMemVx x) s = .next t → u.memory = t.memory → u.i = t.i →
    ∃ r, exec (.ldVxMem x) u = .next r ∧ (∀ k, k ≤ x → r.reg k = s.reg k) ∧ (∀ k, x < k → r.reg k = u.reg k)

/-- R54: the next Cycle fetches what `Fx55` or `Fx33` stored, wherever the stored bytes lie: over both bytes at `ip`,
over one of them, or over none. -/
def Obligations.NextFetchSeesTheStore : Prop :=
  ∀ (s : State) (x : RegNum), s.memory.wf = true →
    (s.i.toNat + x.val ≤ 4095 →
      ∃ t, exec (.ldMemVx x) s = .next t ∧ t.ip = s.ip ∧
        t.fetchWord = wordOfBytes
          (byteAfterStore s (x.val + 1) (fun k => s.reg (Fin.ofNat 16 k)) s.ip.toNat)
          (byteAfterStore s (x.val + 1) (fun k => s.reg (Fin.ofNat 16 k)) (s.ip.toNat + 1))) ∧
    (s.i.toNat + 2 ≤ 4095 →
      ∃ t, exec (.ldBVx x) s = .next t ∧ t.ip = s.ip ∧
        t.fetchWord = wordOfBytes (byteAfterStore s 3 (decimalDigit (s.reg x)) s.ip.toNat)
          (byteAfterStore s 3 (decimalDigit (s.reg x)) (s.ip.toNat + 1)))

/-! ## Display (44_display.md) -/

/-- R140: `00E0` clears all 2048 cells and changes nothing else; it asks for no redraw and leaves `VF`. -/
def Obligations.ClearScreenClearsEveryCell : Prop :=
  ∀ (s : State), EncodedAs .cls 0x00E0 0xFFFF ∧
    ∃ t, exec .cls s = .next t ∧ (∀ k, t.pixel k = false) ∧ t = { s with screen := t.screen } ∧ SameBytes s t

/-- R141 to R143: `Dxyn` in range inverts exactly the cells its set sprite bits fall on, sets `VF` to the collision
flag and asks for a redraw (bit order and wrap are decisions D13 and D14, the range decision D7, log entry 8). -/
def Obligations.DrawInvertsTheCoveredCells : Prop :=
  ∀ (s : State) (x y : RegNum) (n : Nat), n ≤ 15 → (n = 0 ∨ s.i.toNat + n - 1 ≤ 4095) →
    ∃ t, exec (.drw x y n) s = .next t ∧
      (∀ k, SpriteCovers s (s.reg x).toNat (s.reg y).toNat n k → t.pixel k = !s.pixel k) ∧
      (∀ k, ¬ SpriteCovers s (s.reg x).toNat (s.reg y).toNat n k → t.pixel k = s.pixel k) ∧
      ((∃ k, SpriteCovers s (s.reg x).toNat (s.reg y).toNat n k ∧ s.pixel k = true) → t.reg flagReg = 1) ∧
      ((∀ k, SpriteCovers s (s.reg x).toNat (s.reg y).toNat n k → s.pixel k = false) → t.reg flagReg = 0) ∧
      (∀ k, k ≠ flagReg → t.reg k = s.reg k) ∧ t.drawReq = true ∧
      t = { s with screen := t.screen, v := t.v, drawReq := t.drawReq } ∧ SameBytes s t

/-- R143: drawing the same sprite twice at the same place restores the screen, and the second draw reports a
collision when the sprite has a set bit and the region was clear (range as decision D7). -/
def Obligations.DrawingTwiceRestoresTheScreen : Prop :=
  ∀ (s t : State) (x y : RegNum) (n : Nat), n ≤ 15 → (n = 0 ∨ s.i.toNat + n - 1 ≤ 4095) → x ≠ flagReg →
    y ≠ flagReg → exec (.drw x y n) s = .next t →
    ∃ u, exec (.drw x y n) t = .next u ∧ u.screen = s.screen ∧
      ((∃ k, SpriteCovers s (s.reg x).toNat (s.reg y).toNat n k) →
        (∀ k, SpriteCovers s (s.reg x).toNat (s.reg y).toNat n k → s.pixel k = false) → u.reg flagReg = 1)

/-- R144: the redraw request is true for exactly the Cycles that execute a `Dxyn` to completion. -/
def Obligations.RedrawExactlyAfterACompletedDraw : Prop :=
  ∀ (s t : State), step s = .next t →
    (t.drawReq = true ↔
      ∃ input x y n, s.nextEvent = .cycle input ∧ s.mode = .running ∧ s.ip.toNat ≤ 4094 ∧
        decodeWord s.params.strictLowNibble
          (wordOfBytes (s.memory.read s.ip.toNat) (s.memory.read (s.ip.toNat + 1))) = .ok (.drw x y n) ∧
        (n = 0 ∨ s.i.toNat + n - 1 ≤ 4095))

/-! ## Keypad (45_keypad.md) -/

/-- R151, R152 for a key number 0..15: the skip is taken when the key is, or is not, pressed. -/
def Obligations.KeySkipsFollowTheKeyState : Prop :=
  ∀ (s : State) (x : RegNum), (s.reg x).toNat ≤ 15 →
    (∃ t, exec (.skp x) s = .next t ∧
      MovesIp s t (if s.inputs.keys.getLsbD (s.reg x).toNat then (s.ip.toNat + 2) % 65536 else s.ip.toNat)) ∧
    (∃ t, exec (.sknp x) s = .next t ∧
      MovesIp s t (if s.inputs.keys.getLsbD (s.reg x).toNat then s.ip.toNat else (s.ip.toNat + 2) % 65536))

/-- R151, R152 for a key number above 15: the parameter KEY_ID_POLICY decides (decision D8, log entry 6). -/
def Obligations.KeyNumberPolicyDecides : Prop :=
  ∀ (s : State) (x : RegNum), 15 < (s.reg x).toNat →
    (s.params.keyId = .fault →
      (∃ t, exec (.skp x) s = .next t ∧ RaisesOnly s t (.keyIndexOutOfRange (s.reg x))) ∧
      (∃ t, exec (.sknp x) s = .next t ∧ RaisesOnly s t (.keyIndexOutOfRange (s.reg x)))) ∧
    (s.params.keyId = .mask4 →
      (∃ t, exec (.skp x) s = .next t ∧ MovesIp s t
        (if s.inputs.keys.getLsbD ((s.reg x).toNat % 16) then (s.ip.toNat + 2) % 65536 else s.ip.toNat)) ∧
      (∃ t, exec (.sknp x) s = .next t ∧ MovesIp s t
        (if s.inputs.keys.getLsbD ((s.reg x).toNat % 16) then s.ip.toNat else (s.ip.toNat + 2) % 65536))) ∧
    (s.params.keyId = .notPressed →
      (∃ t, exec (.skp x) s = .next t ∧ MovesIp s t s.ip.toNat) ∧
      (∃ t, exec (.sknp x) s = .next t ∧ MovesIp s t ((s.ip.toNat + 2) % 65536)))

/-- R153: with a key down `Fx0A` writes the number of a pressed key to `Vx` and nothing else; under lowest it is the
smallest; under any, every pressed key is a possible answer (the mechanism and the choice are decision D12, log
entries 2 and 3). -/
def Obligations.WaitEndsWithAPressedKey : Prop :=
  ∀ (s : State) (x : RegNum), s.inputs.keys ≠ 0 →
    (∃ (t : State) (k : Fin 16), exec (.ldVxK x) s = .next t ∧ s.inputs.keys.getLsbD k.val = true ∧
      WritesRegister s t x (BitVec.ofNat 8 k.val) ∧
      (s.params.keyPick = .lowest → ∀ j : Fin 16, j < k → s.inputs.keys.getLsbD j.val = false)) ∧
    (s.params.keyPick = .any → ∀ k : Fin 16, s.inputs.keys.getLsbD k.val = true →
      ∃ pick t, exec (.ldVxK x) (s.withKeys s.inputs.keys pick) = .next t ∧ t.reg x = BitVec.ofNat 8 k.val)

/-- R153: a Cycle that meets `Fx0A` with no key down leaves every cell but `opcode` as it was, `ip` included, so the
next Cycle tries again (decision D12). -/
def Obligations.WaitingCycleRepeats : Prop :=
  ∀ (s : State) (x : RegNum) (input : CycleInput) (rest : List Event), s.fault = none → s.mode = .running →
    s.ip.toNat ≤ 4094 → s.pending = .cycle input :: rest → s.fetchWord = encode (.ldVxK x) → input.keys = 0 →
    step s = .next { s with opcode := encode (.ldVxK x), inputs := input, pending := rest, drawReq := false,
                            loadError := false }

/-! ## Timers (46_timers.md) -/

/-- R160, R161: `Fx07` copies `delay` to `Vx`; `Fx15` copies `Vx` to `delay`; nothing else changes. -/
def Obligations.DelayTimerIsReadAndSet : Prop :=
  ∀ (s : State) (x : RegNum),
    (EncodedAs (.ldVxDT x) 0xF007 0xF0FF ∧ ∃ t, exec (.ldVxDT x) s = .next t ∧ WritesRegister s t x s.delay) ∧
      (EncodedAs (.ldDTVx x) 0xF015 0xF0FF ∧
        ∃ t, exec (.ldDTVx x) s = .next t ∧ t.delay = s.reg x ∧ t = { s with delay := t.delay } ∧ SameBytes s t)

/-- R162: `Fx18` copies `Vx` to `sound` and changes nothing else (what the host does with `sound` is left out, log
entry 9). -/
def Obligations.SoundTimerIsSet : Prop :=
  ∀ (s : State) (x : RegNum),
    ∃ t, exec (.ldSTVx x) s = .next t ∧ t.sound = s.reg x ∧ t = { s with sound := t.sound } ∧ SameBytes s t

/-! ## Rules about every instruction -/

/-- Every instruction runs in every state, a fault of its own included, but for the forms VF_ALIAS_POLICY = refuse
takes the meaning from (decision D10). -/
def Obligations.EveryInstructionRuns : Prop :=
  ∀ (i : Instr) (s : State), s.params.vfAlias = .listedOrder ∨ i.keepsFlagRule = true → ∃ t, exec i s = .next t

/-- R11 and R13: an instruction changes no general register but those R11's write rows give it; so `VF` changes only
by the flag writers, by a destination `x = F`, or by `FF65`. -/
def Obligations.RegistersChangeOnlyAsListed : Prop :=
  ∀ (i : Instr) (s t : State) (k : RegNum), exec i s = .next t → t.reg k ≠ s.reg k → mayWriteReg i k = true

/-- 10_state.md section 1, column "Written by", and R16, for the execute phase: which instructions change `ip` (the
advance before it is every Cycle's, R84), `I`, the stack, `sp`, the timers, memory, the screen and the redraw output;
none changes `opcode`, `mode`, the inputs, the Load failure, the queue, the counter or the parameters. The general
registers are the statement RegistersChangeOnlyAsListed, the fault latch FaultsRaisedOnlyAsListed. -/
def Obligations.CellsChangeOnlyAsListed : Prop :=
  ∀ (i : Instr) (s t : State), exec i s = .next t →
    (t.ip ≠ s.ip → i = .ret ∨ (∃ nnn, i = .jp nnn) ∨ (∃ nnn, i = .call nnn) ∨ (∃ nnn, i = .jpV0 nnn) ∨
        (∃ x kk, i = .seImm x kk) ∨ (∃ x kk, i = .sneImm x kk) ∨ (∃ x y, i = .seReg x y) ∨
        (∃ x y, i = .sneReg x y) ∨ (∃ x, i = .skp x) ∨ (∃ x, i = .sknp x) ∨ ∃ x, i = .ldVxK x) ∧
      (t.i ≠ s.i → (∃ nnn, i = .ldI nnn) ∨ (∃ x, i = .addIVx x) ∨ ∃ x, i = .ldFVx x) ∧
      (t.stack ≠ s.stack → ∃ nnn, i = .call nnn) ∧
      (t.sp ≠ s.sp → i = .ret ∨ ∃ nnn, i = .call nnn) ∧
      (t.delay ≠ s.delay → ∃ x, i = .ldDTVx x) ∧
      (t.sound ≠ s.sound → ∃ x, i = .ldSTVx x) ∧
      (t.memory ≠ s.memory → (∃ x, i = .ldBVx x) ∨ ∃ x, i = .ldMemVx x) ∧
      (t.screen ≠ s.screen → i = .cls ∨ ∃ x y n, i = .drw x y n) ∧
      (t.drawReq ≠ s.drawReq → ∃ x y n, i = .drw x y n) ∧
      t.opcode = s.opcode ∧ t.mode = s.mode ∧ t.inputs = s.inputs ∧ t.loadError = s.loadError ∧
      t.pending = s.pending ∧ t.draws = s.draws ∧ t.params = s.params

/-- R172: which instruction can raise which fault in its execute phase; the others raise none. -/
def Obligations.FaultsRaisedOnlyAsListed : Prop :=
  ∀ (i : Instr) (s t : State) (r : FaultRecord), s.fault = none → exec i s = .next t → t.fault = some r →
    mayRaise i r = true

/-- R175: an instruction that raises a fault changes nothing but the latch (the model's choice: decision D5, log
entry 5). -/
def Obligations.FaultingInstructionChangesOnlyTheLatch : Prop :=
  ∀ (i : Instr) (s t : State), s.fault = none → exec i s = .next t → t.fault ≠ none →
    t = { s with fault := t.fault }

/-- R150, R187: the random byte is consumed by `Cxkk` only, and the key state sampled by `Ex9E`, `ExA1` and `Fx0A`
only; any other instruction does the same whatever those inputs are. -/
def Obligations.InputsReachOnlyTheirInstructions : Prop :=
  ∀ (i : Instr) (s : State),
    (∀ b, (∀ x kk, i ≠ .rnd x kk) → exec i (s.withRand b) = mapNext (fun t => t.withRand b) (exec i s)) ∧
    (∀ keys pick, (∀ x, i ≠ .skp x) → (∀ x, i ≠ .sknp x) → (∀ x, i ≠ .ldVxK x) →
      exec i (s.withKeys keys pick) = mapNext (fun t => t.withKeys keys pick) (exec i s))

/-! ## The invariant -/

/-- The invariant holds after reset. -/
def Obligations.InvariantHoldsAtReset : Prop := State.reset.Inv

/-- R17, R28: every step keeps the invariant: memory canonical and within 0..4095, `ip` at most 0x10FE, stacked
addresses at most 4096, the fault record legal (its form is decision D4). -/
def Obligations.StepKeepsTheInvariant : Prop :=
  ∀ (s t : State), s.Inv → step s = .next t → t.Inv
end

