-- ==== Sys2Proof/Laws/Decode.lean ====
section
/-! SUPPORT. The fields of an encoded word are the operands it was built from, and a word is built from its fields. -/

namespace Sys2Proof

/-! ## Fields of an encoded word (R61, R62) -/

@[simp] theorem opField_encodeNNN (op : BitVec 4) (nnn : Addr12) : opField (encodeNNN op nnn) = op := by
  apply BitVec.eq_of_getLsbD_eq
  intro i hi
  simp only [opField, encodeNNN, BitVec.getLsbD_extractLsb', BitVec.getLsbD_append]
  have h : ¬ (12 + i < 12) := by omega
  simp [hi]

@[simp] theorem nnnField_encodeNNN (op : BitVec 4) (nnn : Addr12) : nnnField (encodeNNN op nnn) = nnn := by
  apply BitVec.eq_of_getLsbD_eq
  intro i hi
  simp only [nnnField, encodeNNN, BitVec.getLsbD_extractLsb', BitVec.getLsbD_append, Nat.zero_add, hi, if_true,
    decide_true, Bool.true_and]

@[simp] theorem opField_encodeXKK (op : BitVec 4) (x : RegNum) (kk : Byte) : opField (encodeXKK op x kk) = op := by
  apply BitVec.eq_of_getLsbD_eq
  intro i hi
  have h1 : ¬ (12 + i < 8) := by omega
  have h2 : ¬ (12 + i - 8 < 4) := by omega
  have h3 : 12 + i - 8 - 4 = i := by omega
  simp only [opField, encodeXKK, BitVec.getLsbD_extractLsb', BitVec.getLsbD_append, h1, h2, h3, hi, if_false,
    decide_true, Bool.true_and]

@[simp] theorem xField_encodeXKK (op : BitVec 4) (x : RegNum) (kk : Byte) : xField (encodeXKK op x kk) = x := by
  have : (encodeXKK op x kk).extractLsb' 8 4 = regBits x := by
    apply BitVec.eq_of_getLsbD_eq
    intro i hi
    have h1 : ¬ (8 + i < 8) := by omega
    have h2 : 8 + i - 8 = i := by omega
    simp only [encodeXKK, BitVec.getLsbD_extractLsb', BitVec.getLsbD_append, h1, h2, hi, if_false, if_true,
      decide_true, Bool.true_and]
  rw [xField, this]; rfl

@[simp] theorem kkField_encodeXKK (op : BitVec 4) (x : RegNum) (kk : Byte) : kkField (encodeXKK op x kk) = kk := by
  apply BitVec.eq_of_getLsbD_eq
  intro i hi
  simp only [kkField, encodeXKK, BitVec.getLsbD_extractLsb', BitVec.getLsbD_append, Nat.zero_add, hi, if_true,
    decide_true, Bool.true_and]

@[simp] theorem opField_encodeXYN (op : BitVec 4) (x y : RegNum) (n : BitVec 4) :
    opField (encodeXYN op x y n) = op := by
  apply BitVec.eq_of_getLsbD_eq
  intro i hi
  have h1 : ¬ (12 + i < 4) := by omega
  have h2 : ¬ (12 + i - 4 < 4) := by omega
  have h3 : ¬ (12 + i - 4 - 4 < 4) := by omega
  have h4 : 12 + i - 4 - 4 - 4 = i := by omega
  simp only [opField, encodeXYN, BitVec.getLsbD_extractLsb', BitVec.getLsbD_append, h1, h2, h3, h4, hi, if_false,
    decide_true, Bool.true_and]

@[simp] theorem xField_encodeXYN (op : BitVec 4) (x y : RegNum) (n : BitVec 4) :
    xField (encodeXYN op x y n) = x := by
  have : (encodeXYN op x y n).extractLsb' 8 4 = regBits x := by
    apply BitVec.eq_of_getLsbD_eq
    intro i hi
    have h1 : ¬ (8 + i < 4) := by omega
    have h2 : ¬ (8 + i - 4 < 4) := by omega
    have h3 : 8 + i - 4 - 4 = i := by omega
    simp only [encodeXYN, BitVec.getLsbD_extractLsb', BitVec.getLsbD_append, h1, h2, h3, hi, if_false, if_true,
      decide_true, Bool.true_and]
  rw [xField, this]; rfl

@[simp] theorem yField_encodeXYN (op : BitVec 4) (x y : RegNum) (n : BitVec 4) :
    yField (encodeXYN op x y n) = y := by
  have : (encodeXYN op x y n).extractLsb' 4 4 = regBits y := by
    apply BitVec.eq_of_getLsbD_eq
    intro i hi
    have h1 : ¬ (4 + i < 4) := by omega
    have h2 : 4 + i - 4 = i := by omega
    simp only [encodeXYN, BitVec.getLsbD_extractLsb', BitVec.getLsbD_append, h1, h2, hi, if_false, if_true,
      decide_true, Bool.true_and]
  rw [yField, this]; rfl

@[simp] theorem nField_encodeXYN (op : BitVec 4) (x y : RegNum) (n : BitVec 4) :
    nField (encodeXYN op x y n) = n.toNat := by
  have : (encodeXYN op x y n).extractLsb' 0 4 = n := by
    apply BitVec.eq_of_getLsbD_eq
    intro i hi
    simp only [encodeXYN, BitVec.getLsbD_extractLsb', BitVec.getLsbD_append, Nat.zero_add, hi, if_true, decide_true,
      Bool.true_and]
  rw [nField, this]

/-! ## A word is built from its fields -/

@[simp] theorem regBits_toFin (b : BitVec 4) : regBits b.toFin = b := rfl

theorem encodeNNN_fields (w : Word) : encodeNNN (opField w) (nnnField w) = w := by
  apply BitVec.eq_of_getLsbD_eq
  intro i hi
  simp only [encodeNNN, opField, nnnField, BitVec.getLsbD_extractLsb', BitVec.getLsbD_append]
  split
  · simp_all
  · have h1 : i - 12 < 4 := by omega
    have h2 : 12 + (i - 12) = i := by omega
    simp [h1, h2]

theorem encodeXKK_fields (w : Word) : encodeXKK (opField w) (xField w) (kkField w) = w := by
  apply BitVec.eq_of_getLsbD_eq
  intro i hi
  simp only [encodeXKK, opField, xField, kkField, regBits_toFin, BitVec.getLsbD_extractLsb', BitVec.getLsbD_append]
  split
  · simp_all
  · split
    · have h2 : 8 + (i - 8) = i := by omega
      simp_all
    · have h1 : i - 8 - 4 < 4 := by omega
      have h2 : 12 + (i - 8 - 4) = i := by omega
      simp [h1, h2]

theorem encodeXYN_fields (w : Word) :
    encodeXYN (opField w) (xField w) (yField w) (BitVec.ofNat 4 (nField w)) = w := by
  have hn : BitVec.ofNat 4 (nField w) = w.extractLsb' 0 4 := BitVec.eq_of_toNat_eq (by simp [nField])
  apply BitVec.eq_of_getLsbD_eq
  intro i hi
  simp only [hn, encodeXYN, opField, xField, yField, regBits_toFin, BitVec.getLsbD_extractLsb',
    BitVec.getLsbD_append]
  split
  · simp_all
  · split
    · have h2 : 4 + (i - 4) = i := by omega
      simp_all
    · split
      · have h2 : 8 + (i - 4 - 4) = i := by omega
        simp_all
      · have h1 : i - 4 - 4 - 4 < 4 := by omega
        have h2 : 12 + (i - 4 - 4 - 4) = i := by omega
        simp [h1, h2]

theorem nField_le (w : Word) : nField w ≤ 15 := by
  have := (w.extractLsb' 0 4).isLt
  simp only [nField]; omega

theorem wordOfBytes_bytes (w : Word) : wordOfBytes (highByte w) (lowByte w) = w := by
  apply BitVec.eq_of_getLsbD_eq
  intro i hi
  simp only [wordOfBytes, highByte, lowByte, BitVec.getLsbD_extractLsb', BitVec.getLsbD_append]
  split
  · simp_all
  · have h1 : i - 8 < 8 := by omega
    have h2 : 8 + (i - 8) = i := by omega
    simp [h1, h2]

/-! ## Masks -/

theorem encodeXYN_and (a b : BitVec 4) (x y x' y' : RegNum) (n m : BitVec 4) :
    encodeXYN a x y n &&& encodeXYN b x' y' m =
      (((a &&& b) ++ (regBits x &&& regBits x')) ++ (regBits y &&& regBits y')) ++ (n &&& m) := by
  simp only [encodeXYN]
  rw [← BitVec.and_append, ← BitVec.and_append, ← BitVec.and_append]

theorem encodeXKK_and (a b : BitVec 4) (x x' : RegNum) (kk kk' : Byte) :
    encodeXKK a x kk &&& encodeXKK b x' kk' = ((a &&& b) ++ (regBits x &&& regBits x')) ++ (kk &&& kk') := by
  simp only [encodeXKK]
  rw [← BitVec.and_append, ← BitVec.and_append]

/-- The mask of formats NNN, XKK and XYN keeps the op field. -/
theorem and_F000 (w : Word) : w &&& 0xF000 = encodeXYN (opField w) 0 0 0 := by
  conv_lhs => rw [← encodeXYN_fields w]
  have hm : (0xF000 : Word) = encodeXYN 0xF 0 0 0 := by decide
  have h15 (b : BitVec 4) : b &&& 15#4 = b := by revert b; decide
  have h0 : regBits 0 = 0#4 := rfl
  rw [hm, encodeXYN_and]
  simp [encodeXYN, h15, h0]

/-- The mask of format XY keeps the op field and the low nibble. -/
theorem and_F00F (w : Word) : w &&& 0xF00F = encodeXYN (opField w) 0 0 (BitVec.ofNat 4 (nField w)) := by
  conv_lhs => rw [← encodeXYN_fields w]
  have hm : (0xF00F : Word) = encodeXYN 0xF 0 0 0xF := by decide
  have h15 (b : BitVec 4) : b &&& 15#4 = b := by revert b; decide
  have h0 : regBits 0 = 0#4 := rfl
  rw [hm, encodeXYN_and]
  simp [encodeXYN, h15, h0]

/-- The mask of format XSEL keeps the op field and the low byte. -/
theorem and_F0FF (w : Word) : w &&& 0xF0FF = encodeXKK (opField w) 0 (kkField w) := by
  conv_lhs => rw [← encodeXKK_fields w]
  have hm : (0xF0FF : Word) = encodeXKK 0xF 0 0xFF := by decide
  have h15 (b : BitVec 4) : b &&& 15#4 = b := by revert b; decide
  have h255 (b : BitVec 8) : b &&& 255#8 = b := by revert b; decide
  have h0 : regBits 0 = 0#4 := rfl
  rw [hm, encodeXKK_and]
  simp [encodeXKK, h15, h255, h0]

/-! ## Fields read off a masked word, and words built from named fields -/

theorem opField_of_and {w m p : Word} (h : w &&& m = p) (hm : m.extractLsb' 12 4 = 0xF) :
    opField w = p.extractLsb' 12 4 := by
  have h15 (b : BitVec 4) : b &&& 15#4 = b := by revert b; decide
  rw [← h, BitVec.extractLsb'_and, hm]
  exact (h15 _).symm

theorem nField_of_and {w m p : Word} (h : w &&& m = p) (hm : m.extractLsb' 0 4 = 0xF) :
    nField w = (p.extractLsb' 0 4).toNat := by
  have h15 (b : BitVec 4) : b &&& 15#4 = b := by revert b; decide
  rw [← h, BitVec.extractLsb'_and, hm, nField]
  exact congrArg BitVec.toNat (h15 _).symm

theorem kkField_of_and {w m p : Word} (h : w &&& m = p) (hm : m.extractLsb' 0 8 = 0xFF) :
    kkField w = p.extractLsb' 0 8 := by
  have h255 (b : BitVec 8) : b &&& 255#8 = b := by revert b; decide
  rw [← h, BitVec.extractLsb'_and, hm]
  exact (h255 _).symm

theorem opField_eq {w : Word} {a : Nat} (h : (opField w).toNat = a) : opField w = BitVec.ofNat 4 a := by
  rw [← h]; simp

theorem kkField_eq {w : Word} {a : Nat} (h : (kkField w).toNat = a) : kkField w = BitVec.ofNat 8 a := by
  rw [← h]; simp

theorem encodeNNN_of {w : Word} {op : BitVec 4} (ho : opField w = op) : encodeNNN op (nnnField w) = w := by
  rw [← ho]; exact encodeNNN_fields w

theorem encodeXKK_of {w : Word} {op : BitVec 4} {kk : Byte} (ho : opField w = op) (hk : kkField w = kk) :
    encodeXKK op (xField w) kk = w := by
  rw [← ho, ← hk]; exact encodeXKK_fields w

theorem encodeXYN_of {w : Word} {op n : BitVec 4} (ho : opField w = op) (hn : BitVec.ofNat 4 (nField w) = n) :
    encodeXYN op (xField w) (yField w) n = w := by
  rw [← ho, ← hn]; exact encodeXYN_fields w

end Sys2Proof
end

