-- ==== Sys2Proof/Laws/Memory.lean ====
section
/-! SUPPORT. The laws of memory: read after write, the bytes a write leaves alone, and that every operation keeps the
canonical form. -/

namespace Sys2Proof.Machine

/-! ## The canonical form -/

theorem Memory.wfFrom_cons {low a : Nat} {b : Byte} {m : Memory} :
    Memory.wfFrom low ((a, b) :: m) = true ↔
      low ≤ a ∧ a < Config.memSize ∧ b ≠ Memory.unlisted ∧ Memory.wfFrom (a + 1) m = true := by
  simp [Memory.wfFrom, and_assoc]

theorem Memory.wfFrom_mono {low low' : Nat} {m : Memory} (h : Memory.wfFrom low m = true) (hl : low' ≤ low) :
    Memory.wfFrom low' m = true := by
  cases m with
  | nil => rfl
  | cons c m =>
    obtain ⟨a, b⟩ := c
    rw [Memory.wfFrom_cons] at h ⊢
    exact ⟨hl.trans h.1, h.2⟩

@[simp] theorem Memory.wf_nil : Memory.wf [] = true := rfl

/-- An address below every listed one reads as unlisted. -/
theorem Memory.read_below {low k : Nat} {m : Memory} (h : Memory.wfFrom low m = true) (hk : k < low) :
    Memory.read m k = Memory.unlisted := by
  induction m generalizing low with
  | nil => rfl
  | cons c m ih =>
    obtain ⟨a, b⟩ := c
    rw [Memory.wfFrom_cons] at h
    have hne : a ≠ k := by omega
    simp [Memory.read, hne, ih h.2.2.2 (by omega)]

/-- An address outside 0..4095 reads as unlisted. -/
theorem Memory.read_outside {low k : Nat} {m : Memory} (h : Memory.wfFrom low m = true) (hk : Config.memSize ≤ k) :
    Memory.read m k = Memory.unlisted := by
  induction m generalizing low with
  | nil => rfl
  | cons c m ih =>
    obtain ⟨a, b⟩ := c
    rw [Memory.wfFrom_cons] at h
    have hne : a ≠ k := by omega
    simp [Memory.read, hne, ih h.2.2.2]

/-! ## One byte -/

/-- A write keeps the canonical form. -/
theorem Memory.wfFrom_write {low k : Nat} {m : Memory} {v : Byte} (h : Memory.wfFrom low m = true) (hl : low ≤ k)
    (hk : k < Config.memSize) : Memory.wfFrom low (Memory.write m k v) = true := by
  induction m generalizing low with
  | nil =>
    by_cases hv : v = Memory.unlisted
    · simp [Memory.write, hv, Memory.wfFrom]
    · simp [Memory.write, hv, Memory.wfFrom, hl, hk]
  | cons c m ih =>
    obtain ⟨a, b⟩ := c
    have hc := Memory.wfFrom_cons.1 h
    obtain ⟨h1, h2, h3, h4⟩ := hc
    unfold Memory.write
    split
    · rename_i hlt
      split
      · exact h
      · rename_i hv
        exact Memory.wfFrom_cons.2 ⟨hl, hk, hv, Memory.wfFrom_cons.2 ⟨by omega, h2, h3, h4⟩⟩
    · split
      · rename_i hlt heq
        subst heq
        split
        · exact Memory.wfFrom_mono h4 (by omega)
        · rename_i hv
          exact Memory.wfFrom_cons.2 ⟨h1, h2, hv, h4⟩
      · exact Memory.wfFrom_cons.2 ⟨h1, h2, h3, ih h4 (by omega)⟩

/-- A write to an address of memory keeps the canonical form. -/
theorem Memory.wf_write {m : Memory} {k : Nat} {v : Byte} (h : m.wf = true) (hk : k < Config.memSize) :
    (m.write k v).wf = true :=
  Memory.wfFrom_write h (Nat.zero_le k) hk

/-- What every address reads as after a write. -/
theorem Memory.read_write_from {low k a : Nat} {m : Memory} {v : Byte} (h : Memory.wfFrom low m = true) :
    Memory.read (Memory.write m k v) a = if a = k then v else Memory.read m a := by
  induction m generalizing low with
  | nil =>
    by_cases hv : v = Memory.unlisted <;> by_cases ha : a = k <;> simp [Memory.write, Memory.read, hv, ha]
    exact fun h => absurd h.symm ha
  | cons c m ih =>
    obtain ⟨b, w⟩ := c
    obtain ⟨h1, h2, h3, h4⟩ := Memory.wfFrom_cons.1 h
    unfold Memory.write
    split
    · rename_i hlt
      split
      · rename_i hv
        split
        · rename_i ha
          subst ha hv
          have hne : b ≠ a := by omega
          have hrest : Memory.read m a = Memory.unlisted := Memory.read_below h4 (by omega)
          simp [Memory.read, hne, hrest]
        · rfl
      · by_cases ha : a = k
        · subst ha; simp [Memory.read]
        · have : k ≠ a := fun h => ha h.symm
          simp [Memory.read, ha, this]
    · split
      · rename_i hlt heq
        subst heq
        split
        · rename_i hv
          by_cases ha : a = k
          · subst ha hv
            simp [Memory.read_below h4 (Nat.lt_succ_self a)]
          · have : k ≠ a := fun h => ha h.symm
            simp [Memory.read, ha, this]
        · by_cases ha : a = k
          · subst ha; simp [Memory.read]
          · have : k ≠ a := fun h => ha h.symm
            simp [Memory.read, ha, this]
      · rename_i hlt hne
        simp only [Memory.read, ih h4]
        by_cases hb : b = a
        · have : a ≠ k := by omega
          simp [hb, this]
        · simp [hb]

/-- What every address reads as after a write. -/
theorem Memory.read_write {m : Memory} {k a : Nat} {v : Byte} (h : m.wf = true) :
    (m.write k v).read a = if a = k then v else m.read a :=
  Memory.read_write_from h

/-! ## Several bytes -/

/-- Writing bytes that lie in memory keeps the canonical form. -/
theorem Memory.wf_writeBytes {m : Memory} {a : Nat} {bs : List Byte} (h : m.wf = true)
    (hb : a + bs.length ≤ Config.memSize) : (m.writeBytes a bs).wf = true := by
  induction bs generalizing a with
  | nil => exact h
  | cons b bs ih =>
    rw [List.length_cons] at hb
    exact Memory.wf_write (ih (by omega)) (by omega)

/-- An address below the written bytes reads as before. -/
theorem Memory.read_writeBytes_below {m : Memory} {a k : Nat} {bs : List Byte} (h : m.wf = true)
    (hb : a + bs.length ≤ Config.memSize) (hk : k < a) : (m.writeBytes a bs).read k = m.read k := by
  induction bs generalizing a with
  | nil => rfl
  | cons b bs ih =>
    rw [List.length_cons] at hb
    have hw : (m.writeBytes (a + 1) bs).wf = true := Memory.wf_writeBytes h (by omega)
    have hne : k ≠ a := by omega
    simp [Memory.writeBytes, Memory.read_write hw, hne, ih (a := a + 1) (by omega) (by omega)]

/-- What every address reads as after bytes are written at `a`. -/
theorem Memory.read_writeBytes {m : Memory} {a k : Nat} {bs : List Byte} (h : m.wf = true)
    (hb : a + bs.length ≤ Config.memSize) :
    (m.writeBytes a bs).read k = if a ≤ k then (bs[k - a]?).getD (m.read k) else m.read k := by
  induction bs generalizing a with
  | nil => simp [Memory.writeBytes]
  | cons b bs ih =>
    rw [List.length_cons] at hb
    have hw : (m.writeBytes (a + 1) bs).wf = true := Memory.wf_writeBytes h (by omega)
    simp only [Memory.writeBytes, Memory.read_write hw]
    by_cases hk : k = a
    · subst hk; simp
    · by_cases hle : a ≤ k
      · have h1 : a + 1 ≤ k := by omega
        obtain ⟨d, hd⟩ : ∃ d, k - a = d + 1 := ⟨k - a - 1, by omega⟩
        have hd' : k - (a + 1) = d := by omega
        simp [hk, ih (a := a + 1) (by omega), hle, h1, hd, hd']
      · have h1 : ¬ a + 1 ≤ k := by omega
        simp [hk, ih (a := a + 1) (by omega), hle, h1]

/-- A byte inside the written bytes reads as written. -/
theorem Memory.read_writeBytes_at {m : Memory} {a j : Nat} {bs : List Byte} (h : m.wf = true)
    (hb : a + bs.length ≤ Config.memSize) (hj : j < bs.length) : (m.writeBytes a bs).read (a + j) = bs[j] := by
  simp [Memory.read_writeBytes h hb, hj]

/-- An address outside the written bytes reads as before. -/
theorem Memory.read_writeBytes_outside {m : Memory} {a k : Nat} {bs : List Byte} (h : m.wf = true)
    (hb : a + bs.length ≤ Config.memSize) (hk : k < a ∨ a + bs.length ≤ k) :
    (m.writeBytes a bs).read k = m.read k := by
  rw [Memory.read_writeBytes h hb]
  split
  · have : bs.length ≤ k - a := by omega
    simp [this]
  · rfl

@[simp] theorem Memory.length_readBytes (m : Memory) (a n : Nat) : (m.readBytes a n).length = n := by
  induction n generalizing a with
  | zero => rfl
  | succ n ih => simp [Memory.readBytes, ih]

/-- The bytes read are the bytes at the successive addresses. -/
theorem Memory.getElem?_readBytes (m : Memory) (a n j : Nat) :
    (m.readBytes a n)[j]? = if j < n then some (m.read (a + j)) else none := by
  induction n generalizing a j with
  | zero => simp [Memory.readBytes]
  | succ n ih =>
    cases j with
    | zero => simp [Memory.readBytes]
    | succ j =>
      have : a + 1 + j = a + (j + 1) := by omega
      simp [Memory.readBytes, ih, this]

@[simp] theorem Memory.getElem_readBytes (m : Memory) (a n j : Nat) (h : j < (m.readBytes a n).length) :
    (m.readBytes a n)[j] = m.read (a + j) := by
  have hn : j < n := by simpa using h
  have := Memory.getElem?_readBytes m a n j
  rw [List.getElem?_eq_getElem h, if_pos hn] at this
  exact Option.some.inj this

end Sys2Proof.Machine
end

