-- ==== Sys2Proof/Laws/State.lean ====
section
/-! SUPPORT. One lemma per field per update of the state, each true by `rfl`. -/

namespace Sys2Proof.Machine

/-! ### setReg -/

@[simp] theorem State.setReg_v (s : State) (x : RegNum) (b : Byte) : (s.setReg x b).v = s.v.set x b := rfl
@[simp] theorem State.setReg_i (s : State) (x : RegNum) (b : Byte) : (s.setReg x b).i = s.i := rfl
@[simp] theorem State.setReg_ip (s : State) (x : RegNum) (b : Byte) : (s.setReg x b).ip = s.ip := rfl
@[simp] theorem State.setReg_stack (s : State) (x : RegNum) (b : Byte) : (s.setReg x b).stack = s.stack := rfl
@[simp] theorem State.setReg_sp (s : State) (x : RegNum) (b : Byte) : (s.setReg x b).sp = s.sp := rfl
@[simp] theorem State.setReg_delay (s : State) (x : RegNum) (b : Byte) : (s.setReg x b).delay = s.delay := rfl
@[simp] theorem State.setReg_sound (s : State) (x : RegNum) (b : Byte) : (s.setReg x b).sound = s.sound := rfl
@[simp] theorem State.setReg_memory (s : State) (x : RegNum) (b : Byte) : (s.setReg x b).memory = s.memory := rfl
@[simp] theorem State.setReg_screen (s : State) (x : RegNum) (b : Byte) : (s.setReg x b).screen = s.screen := rfl
@[simp] theorem State.setReg_opcode (s : State) (x : RegNum) (b : Byte) : (s.setReg x b).opcode = s.opcode := rfl
@[simp] theorem State.setReg_mode (s : State) (x : RegNum) (b : Byte) : (s.setReg x b).mode = s.mode := rfl
@[simp] theorem State.setReg_fault (s : State) (x : RegNum) (b : Byte) : (s.setReg x b).fault = s.fault := rfl
@[simp] theorem State.setReg_inputs (s : State) (x : RegNum) (b : Byte) : (s.setReg x b).inputs = s.inputs := rfl
@[simp] theorem State.setReg_drawReq (s : State) (x : RegNum) (b : Byte) : (s.setReg x b).drawReq = s.drawReq := rfl
@[simp] theorem State.setReg_loadError (s : State) (x : RegNum) (b : Byte) : (s.setReg x b).loadError = s.loadError := rfl
@[simp] theorem State.setReg_pending (s : State) (x : RegNum) (b : Byte) : (s.setReg x b).pending = s.pending := rfl
@[simp] theorem State.setReg_draws (s : State) (x : RegNum) (b : Byte) : (s.setReg x b).draws = s.draws := rfl
@[simp] theorem State.setReg_params (s : State) (x : RegNum) (b : Byte) : (s.setReg x b).params = s.params := rfl

/-! ### setI -/

@[simp] theorem State.setI_v (s : State) (w : Word) : (s.setI w).v = s.v := rfl
@[simp] theorem State.setI_i (s : State) (w : Word) : (s.setI w).i = w := rfl
@[simp] theorem State.setI_ip (s : State) (w : Word) : (s.setI w).ip = s.ip := rfl
@[simp] theorem State.setI_stack (s : State) (w : Word) : (s.setI w).stack = s.stack := rfl
@[simp] theorem State.setI_sp (s : State) (w : Word) : (s.setI w).sp = s.sp := rfl
@[simp] theorem State.setI_delay (s : State) (w : Word) : (s.setI w).delay = s.delay := rfl
@[simp] theorem State.setI_sound (s : State) (w : Word) : (s.setI w).sound = s.sound := rfl
@[simp] theorem State.setI_memory (s : State) (w : Word) : (s.setI w).memory = s.memory := rfl
@[simp] theorem State.setI_screen (s : State) (w : Word) : (s.setI w).screen = s.screen := rfl
@[simp] theorem State.setI_opcode (s : State) (w : Word) : (s.setI w).opcode = s.opcode := rfl
@[simp] theorem State.setI_mode (s : State) (w : Word) : (s.setI w).mode = s.mode := rfl
@[simp] theorem State.setI_fault (s : State) (w : Word) : (s.setI w).fault = s.fault := rfl
@[simp] theorem State.setI_inputs (s : State) (w : Word) : (s.setI w).inputs = s.inputs := rfl
@[simp] theorem State.setI_drawReq (s : State) (w : Word) : (s.setI w).drawReq = s.drawReq := rfl
@[simp] theorem State.setI_loadError (s : State) (w : Word) : (s.setI w).loadError = s.loadError := rfl
@[simp] theorem State.setI_pending (s : State) (w : Word) : (s.setI w).pending = s.pending := rfl
@[simp] theorem State.setI_draws (s : State) (w : Word) : (s.setI w).draws = s.draws := rfl
@[simp] theorem State.setI_params (s : State) (w : Word) : (s.setI w).params = s.params := rfl

/-! ### setIp -/

@[simp] theorem State.setIp_v (s : State) (w : Word) : (s.setIp w).v = s.v := rfl
@[simp] theorem State.setIp_i (s : State) (w : Word) : (s.setIp w).i = s.i := rfl
@[simp] theorem State.setIp_ip (s : State) (w : Word) : (s.setIp w).ip = w := rfl
@[simp] theorem State.setIp_stack (s : State) (w : Word) : (s.setIp w).stack = s.stack := rfl
@[simp] theorem State.setIp_sp (s : State) (w : Word) : (s.setIp w).sp = s.sp := rfl
@[simp] theorem State.setIp_delay (s : State) (w : Word) : (s.setIp w).delay = s.delay := rfl
@[simp] theorem State.setIp_sound (s : State) (w : Word) : (s.setIp w).sound = s.sound := rfl
@[simp] theorem State.setIp_memory (s : State) (w : Word) : (s.setIp w).memory = s.memory := rfl
@[simp] theorem State.setIp_screen (s : State) (w : Word) : (s.setIp w).screen = s.screen := rfl
@[simp] theorem State.setIp_opcode (s : State) (w : Word) : (s.setIp w).opcode = s.opcode := rfl
@[simp] theorem State.setIp_mode (s : State) (w : Word) : (s.setIp w).mode = s.mode := rfl
@[simp] theorem State.setIp_fault (s : State) (w : Word) : (s.setIp w).fault = s.fault := rfl
@[simp] theorem State.setIp_inputs (s : State) (w : Word) : (s.setIp w).inputs = s.inputs := rfl
@[simp] theorem State.setIp_drawReq (s : State) (w : Word) : (s.setIp w).drawReq = s.drawReq := rfl
@[simp] theorem State.setIp_loadError (s : State) (w : Word) : (s.setIp w).loadError = s.loadError := rfl
@[simp] theorem State.setIp_pending (s : State) (w : Word) : (s.setIp w).pending = s.pending := rfl
@[simp] theorem State.setIp_draws (s : State) (w : Word) : (s.setIp w).draws = s.draws := rfl
@[simp] theorem State.setIp_params (s : State) (w : Word) : (s.setIp w).params = s.params := rfl

/-! ### setDelay -/

@[simp] theorem State.setDelay_v (s : State) (b : Byte) : (s.setDelay b).v = s.v := rfl
@[simp] theorem State.setDelay_i (s : State) (b : Byte) : (s.setDelay b).i = s.i := rfl
@[simp] theorem State.setDelay_ip (s : State) (b : Byte) : (s.setDelay b).ip = s.ip := rfl
@[simp] theorem State.setDelay_stack (s : State) (b : Byte) : (s.setDelay b).stack = s.stack := rfl
@[simp] theorem State.setDelay_sp (s : State) (b : Byte) : (s.setDelay b).sp = s.sp := rfl
@[simp] theorem State.setDelay_delay (s : State) (b : Byte) : (s.setDelay b).delay = b := rfl
@[simp] theorem State.setDelay_sound (s : State) (b : Byte) : (s.setDelay b).sound = s.sound := rfl
@[simp] theorem State.setDelay_memory (s : State) (b : Byte) : (s.setDelay b).memory = s.memory := rfl
@[simp] theorem State.setDelay_screen (s : State) (b : Byte) : (s.setDelay b).screen = s.screen := rfl
@[simp] theorem State.setDelay_opcode (s : State) (b : Byte) : (s.setDelay b).opcode = s.opcode := rfl
@[simp] theorem State.setDelay_mode (s : State) (b : Byte) : (s.setDelay b).mode = s.mode := rfl
@[simp] theorem State.setDelay_fault (s : State) (b : Byte) : (s.setDelay b).fault = s.fault := rfl
@[simp] theorem State.setDelay_inputs (s : State) (b : Byte) : (s.setDelay b).inputs = s.inputs := rfl
@[simp] theorem State.setDelay_drawReq (s : State) (b : Byte) : (s.setDelay b).drawReq = s.drawReq := rfl
@[simp] theorem State.setDelay_loadError (s : State) (b : Byte) : (s.setDelay b).loadError = s.loadError := rfl
@[simp] theorem State.setDelay_pending (s : State) (b : Byte) : (s.setDelay b).pending = s.pending := rfl
@[simp] theorem State.setDelay_draws (s : State) (b : Byte) : (s.setDelay b).draws = s.draws := rfl
@[simp] theorem State.setDelay_params (s : State) (b : Byte) : (s.setDelay b).params = s.params := rfl

/-! ### setSound -/

@[simp] theorem State.setSound_v (s : State) (b : Byte) : (s.setSound b).v = s.v := rfl
@[simp] theorem State.setSound_i (s : State) (b : Byte) : (s.setSound b).i = s.i := rfl
@[simp] theorem State.setSound_ip (s : State) (b : Byte) : (s.setSound b).ip = s.ip := rfl
@[simp] theorem State.setSound_stack (s : State) (b : Byte) : (s.setSound b).stack = s.stack := rfl
@[simp] theorem State.setSound_sp (s : State) (b : Byte) : (s.setSound b).sp = s.sp := rfl
@[simp] theorem State.setSound_delay (s : State) (b : Byte) : (s.setSound b).delay = s.delay := rfl
@[simp] theorem State.setSound_sound (s : State) (b : Byte) : (s.setSound b).sound = b := rfl
@[simp] theorem State.setSound_memory (s : State) (b : Byte) : (s.setSound b).memory = s.memory := rfl
@[simp] theorem State.setSound_screen (s : State) (b : Byte) : (s.setSound b).screen = s.screen := rfl
@[simp] theorem State.setSound_opcode (s : State) (b : Byte) : (s.setSound b).opcode = s.opcode := rfl
@[simp] theorem State.setSound_mode (s : State) (b : Byte) : (s.setSound b).mode = s.mode := rfl
@[simp] theorem State.setSound_fault (s : State) (b : Byte) : (s.setSound b).fault = s.fault := rfl
@[simp] theorem State.setSound_inputs (s : State) (b : Byte) : (s.setSound b).inputs = s.inputs := rfl
@[simp] theorem State.setSound_drawReq (s : State) (b : Byte) : (s.setSound b).drawReq = s.drawReq := rfl
@[simp] theorem State.setSound_loadError (s : State) (b : Byte) : (s.setSound b).loadError = s.loadError := rfl
@[simp] theorem State.setSound_pending (s : State) (b : Byte) : (s.setSound b).pending = s.pending := rfl
@[simp] theorem State.setSound_draws (s : State) (b : Byte) : (s.setSound b).draws = s.draws := rfl
@[simp] theorem State.setSound_params (s : State) (b : Byte) : (s.setSound b).params = s.params := rfl

/-! ### skipIf -/

@[simp] theorem State.skipIf_v (s : State) (c : Bool) : (s.skipIf c).v = s.v := rfl
@[simp] theorem State.skipIf_i (s : State) (c : Bool) : (s.skipIf c).i = s.i := rfl
@[simp] theorem State.skipIf_ip (s : State) (c : Bool) : (s.skipIf c).ip = if c then s.ip + 2 else s.ip := rfl
@[simp] theorem State.skipIf_stack (s : State) (c : Bool) : (s.skipIf c).stack = s.stack := rfl
@[simp] theorem State.skipIf_sp (s : State) (c : Bool) : (s.skipIf c).sp = s.sp := rfl
@[simp] theorem State.skipIf_delay (s : State) (c : Bool) : (s.skipIf c).delay = s.delay := rfl
@[simp] theorem State.skipIf_sound (s : State) (c : Bool) : (s.skipIf c).sound = s.sound := rfl
@[simp] theorem State.skipIf_memory (s : State) (c : Bool) : (s.skipIf c).memory = s.memory := rfl
@[simp] theorem State.skipIf_screen (s : State) (c : Bool) : (s.skipIf c).screen = s.screen := rfl
@[simp] theorem State.skipIf_opcode (s : State) (c : Bool) : (s.skipIf c).opcode = s.opcode := rfl
@[simp] theorem State.skipIf_mode (s : State) (c : Bool) : (s.skipIf c).mode = s.mode := rfl
@[simp] theorem State.skipIf_fault (s : State) (c : Bool) : (s.skipIf c).fault = s.fault := rfl
@[simp] theorem State.skipIf_inputs (s : State) (c : Bool) : (s.skipIf c).inputs = s.inputs := rfl
@[simp] theorem State.skipIf_drawReq (s : State) (c : Bool) : (s.skipIf c).drawReq = s.drawReq := rfl
@[simp] theorem State.skipIf_loadError (s : State) (c : Bool) : (s.skipIf c).loadError = s.loadError := rfl
@[simp] theorem State.skipIf_pending (s : State) (c : Bool) : (s.skipIf c).pending = s.pending := rfl
@[simp] theorem State.skipIf_draws (s : State) (c : Bool) : (s.skipIf c).draws = s.draws := rfl
@[simp] theorem State.skipIf_params (s : State) (c : Bool) : (s.skipIf c).params = s.params := rfl

/-! ### raise -/

@[simp] theorem State.raise_v (s : State) (r : FaultRecord) : (s.raise r).v = s.v := rfl
@[simp] theorem State.raise_i (s : State) (r : FaultRecord) : (s.raise r).i = s.i := rfl
@[simp] theorem State.raise_ip (s : State) (r : FaultRecord) : (s.raise r).ip = s.ip := rfl
@[simp] theorem State.raise_stack (s : State) (r : FaultRecord) : (s.raise r).stack = s.stack := rfl
@[simp] theorem State.raise_sp (s : State) (r : FaultRecord) : (s.raise r).sp = s.sp := rfl
@[simp] theorem State.raise_delay (s : State) (r : FaultRecord) : (s.raise r).delay = s.delay := rfl
@[simp] theorem State.raise_sound (s : State) (r : FaultRecord) : (s.raise r).sound = s.sound := rfl
@[simp] theorem State.raise_memory (s : State) (r : FaultRecord) : (s.raise r).memory = s.memory := rfl
@[simp] theorem State.raise_screen (s : State) (r : FaultRecord) : (s.raise r).screen = s.screen := rfl
@[simp] theorem State.raise_opcode (s : State) (r : FaultRecord) : (s.raise r).opcode = s.opcode := rfl
@[simp] theorem State.raise_mode (s : State) (r : FaultRecord) : (s.raise r).mode = s.mode := rfl
@[simp] theorem State.raise_fault (s : State) (r : FaultRecord) : (s.raise r).fault = some r := rfl
@[simp] theorem State.raise_inputs (s : State) (r : FaultRecord) : (s.raise r).inputs = s.inputs := rfl
@[simp] theorem State.raise_drawReq (s : State) (r : FaultRecord) : (s.raise r).drawReq = s.drawReq := rfl
@[simp] theorem State.raise_loadError (s : State) (r : FaultRecord) : (s.raise r).loadError = s.loadError := rfl
@[simp] theorem State.raise_pending (s : State) (r : FaultRecord) : (s.raise r).pending = s.pending := rfl
@[simp] theorem State.raise_draws (s : State) (r : FaultRecord) : (s.raise r).draws = s.draws := rfl
@[simp] theorem State.raise_params (s : State) (r : FaultRecord) : (s.raise r).params = s.params := rfl

/-! ### storeAtI -/

@[simp] theorem State.storeAtI_v (s : State) (bs : List Byte) : (s.storeAtI bs).v = s.v := rfl
@[simp] theorem State.storeAtI_i (s : State) (bs : List Byte) : (s.storeAtI bs).i = s.i := rfl
@[simp] theorem State.storeAtI_ip (s : State) (bs : List Byte) : (s.storeAtI bs).ip = s.ip := rfl
@[simp] theorem State.storeAtI_stack (s : State) (bs : List Byte) : (s.storeAtI bs).stack = s.stack := rfl
@[simp] theorem State.storeAtI_sp (s : State) (bs : List Byte) : (s.storeAtI bs).sp = s.sp := rfl
@[simp] theorem State.storeAtI_delay (s : State) (bs : List Byte) : (s.storeAtI bs).delay = s.delay := rfl
@[simp] theorem State.storeAtI_sound (s : State) (bs : List Byte) : (s.storeAtI bs).sound = s.sound := rfl
@[simp] theorem State.storeAtI_memory (s : State) (bs : List Byte) : (s.storeAtI bs).memory = s.memory.writeBytes s.i.toNat bs := rfl
@[simp] theorem State.storeAtI_screen (s : State) (bs : List Byte) : (s.storeAtI bs).screen = s.screen := rfl
@[simp] theorem State.storeAtI_opcode (s : State) (bs : List Byte) : (s.storeAtI bs).opcode = s.opcode := rfl
@[simp] theorem State.storeAtI_mode (s : State) (bs : List Byte) : (s.storeAtI bs).mode = s.mode := rfl
@[simp] theorem State.storeAtI_fault (s : State) (bs : List Byte) : (s.storeAtI bs).fault = s.fault := rfl
@[simp] theorem State.storeAtI_inputs (s : State) (bs : List Byte) : (s.storeAtI bs).inputs = s.inputs := rfl
@[simp] theorem State.storeAtI_drawReq (s : State) (bs : List Byte) : (s.storeAtI bs).drawReq = s.drawReq := rfl
@[simp] theorem State.storeAtI_loadError (s : State) (bs : List Byte) : (s.storeAtI bs).loadError = s.loadError := rfl
@[simp] theorem State.storeAtI_pending (s : State) (bs : List Byte) : (s.storeAtI bs).pending = s.pending := rfl
@[simp] theorem State.storeAtI_draws (s : State) (bs : List Byte) : (s.storeAtI bs).draws = s.draws := rfl
@[simp] theorem State.storeAtI_params (s : State) (bs : List Byte) : (s.storeAtI bs).params = s.params := rfl

/-! ### setRegs -/

@[simp] theorem State.setRegs_v (s : State) (bs : List Byte) : (s.setRegs bs).v = setRegsFrom s.v 0 bs := rfl
@[simp] theorem State.setRegs_i (s : State) (bs : List Byte) : (s.setRegs bs).i = s.i := rfl
@[simp] theorem State.setRegs_ip (s : State) (bs : List Byte) : (s.setRegs bs).ip = s.ip := rfl
@[simp] theorem State.setRegs_stack (s : State) (bs : List Byte) : (s.setRegs bs).stack = s.stack := rfl
@[simp] theorem State.setRegs_sp (s : State) (bs : List Byte) : (s.setRegs bs).sp = s.sp := rfl
@[simp] theorem State.setRegs_delay (s : State) (bs : List Byte) : (s.setRegs bs).delay = s.delay := rfl
@[simp] theorem State.setRegs_sound (s : State) (bs : List Byte) : (s.setRegs bs).sound = s.sound := rfl
@[simp] theorem State.setRegs_memory (s : State) (bs : List Byte) : (s.setRegs bs).memory = s.memory := rfl
@[simp] theorem State.setRegs_screen (s : State) (bs : List Byte) : (s.setRegs bs).screen = s.screen := rfl
@[simp] theorem State.setRegs_opcode (s : State) (bs : List Byte) : (s.setRegs bs).opcode = s.opcode := rfl
@[simp] theorem State.setRegs_mode (s : State) (bs : List Byte) : (s.setRegs bs).mode = s.mode := rfl
@[simp] theorem State.setRegs_fault (s : State) (bs : List Byte) : (s.setRegs bs).fault = s.fault := rfl
@[simp] theorem State.setRegs_inputs (s : State) (bs : List Byte) : (s.setRegs bs).inputs = s.inputs := rfl
@[simp] theorem State.setRegs_drawReq (s : State) (bs : List Byte) : (s.setRegs bs).drawReq = s.drawReq := rfl
@[simp] theorem State.setRegs_loadError (s : State) (bs : List Byte) : (s.setRegs bs).loadError = s.loadError := rfl
@[simp] theorem State.setRegs_pending (s : State) (bs : List Byte) : (s.setRegs bs).pending = s.pending := rfl
@[simp] theorem State.setRegs_draws (s : State) (bs : List Byte) : (s.setRegs bs).draws = s.draws := rfl
@[simp] theorem State.setRegs_params (s : State) (bs : List Byte) : (s.setRegs bs).params = s.params := rfl

/-! ### tickTimers -/

@[simp] theorem State.tickTimers_v (s : State) : (s.tickTimers).v = s.v := rfl
@[simp] theorem State.tickTimers_i (s : State) : (s.tickTimers).i = s.i := rfl
@[simp] theorem State.tickTimers_ip (s : State) : (s.tickTimers).ip = s.ip := rfl
@[simp] theorem State.tickTimers_stack (s : State) : (s.tickTimers).stack = s.stack := rfl
@[simp] theorem State.tickTimers_sp (s : State) : (s.tickTimers).sp = s.sp := rfl
@[simp] theorem State.tickTimers_delay (s : State) : (s.tickTimers).delay = countDown s.delay := rfl
@[simp] theorem State.tickTimers_sound (s : State) : (s.tickTimers).sound = countDown s.sound := rfl
@[simp] theorem State.tickTimers_memory (s : State) : (s.tickTimers).memory = s.memory := rfl
@[simp] theorem State.tickTimers_screen (s : State) : (s.tickTimers).screen = s.screen := rfl
@[simp] theorem State.tickTimers_opcode (s : State) : (s.tickTimers).opcode = s.opcode := rfl
@[simp] theorem State.tickTimers_mode (s : State) : (s.tickTimers).mode = s.mode := rfl
@[simp] theorem State.tickTimers_fault (s : State) : (s.tickTimers).fault = s.fault := rfl
@[simp] theorem State.tickTimers_inputs (s : State) : (s.tickTimers).inputs = s.inputs := rfl
@[simp] theorem State.tickTimers_drawReq (s : State) : (s.tickTimers).drawReq = s.drawReq := rfl
@[simp] theorem State.tickTimers_loadError (s : State) : (s.tickTimers).loadError = s.loadError := rfl
@[simp] theorem State.tickTimers_pending (s : State) : (s.tickTimers).pending = s.pending := rfl
@[simp] theorem State.tickTimers_draws (s : State) : (s.tickTimers).draws = s.draws := rfl
@[simp] theorem State.tickTimers_params (s : State) : (s.tickTimers).params = s.params := rfl

/-! ### enterIdle -/

@[simp] theorem State.enterIdle_v (s : State) : (s.enterIdle).v = s.v := rfl
@[simp] theorem State.enterIdle_i (s : State) : (s.enterIdle).i = s.i := rfl
@[simp] theorem State.enterIdle_ip (s : State) : (s.enterIdle).ip = s.ip := rfl
@[simp] theorem State.enterIdle_stack (s : State) : (s.enterIdle).stack = s.stack := rfl
@[simp] theorem State.enterIdle_sp (s : State) : (s.enterIdle).sp = s.sp := rfl
@[simp] theorem State.enterIdle_delay (s : State) : (s.enterIdle).delay = s.delay := rfl
@[simp] theorem State.enterIdle_sound (s : State) : (s.enterIdle).sound = s.sound := rfl
@[simp] theorem State.enterIdle_memory (s : State) : (s.enterIdle).memory = s.memory := rfl
@[simp] theorem State.enterIdle_screen (s : State) : (s.enterIdle).screen = s.screen := rfl
@[simp] theorem State.enterIdle_opcode (s : State) : (s.enterIdle).opcode = s.opcode := rfl
@[simp] theorem State.enterIdle_mode (s : State) : (s.enterIdle).mode = .idle := rfl
@[simp] theorem State.enterIdle_fault (s : State) : (s.enterIdle).fault = s.fault := rfl
@[simp] theorem State.enterIdle_inputs (s : State) : (s.enterIdle).inputs = s.inputs := rfl
@[simp] theorem State.enterIdle_drawReq (s : State) : (s.enterIdle).drawReq = s.drawReq := rfl
@[simp] theorem State.enterIdle_loadError (s : State) : (s.enterIdle).loadError = s.loadError := rfl
@[simp] theorem State.enterIdle_pending (s : State) : (s.enterIdle).pending = s.pending := rfl
@[simp] theorem State.enterIdle_draws (s : State) : (s.enterIdle).draws = s.draws := rfl
@[simp] theorem State.enterIdle_params (s : State) : (s.enterIdle).params = s.params := rfl

/-! ### leaveIdle -/

@[simp] theorem State.leaveIdle_v (s : State) : (s.leaveIdle).v = s.v := rfl
@[simp] theorem State.leaveIdle_i (s : State) : (s.leaveIdle).i = s.i := rfl
@[simp] theorem State.leaveIdle_ip (s : State) : (s.leaveIdle).ip = s.ip := rfl
@[simp] theorem State.leaveIdle_stack (s : State) : (s.leaveIdle).stack = s.stack := rfl
@[simp] theorem State.leaveIdle_sp (s : State) : (s.leaveIdle).sp = s.sp := rfl
@[simp] theorem State.leaveIdle_delay (s : State) : (s.leaveIdle).delay = s.delay := rfl
@[simp] theorem State.leaveIdle_sound (s : State) : (s.leaveIdle).sound = s.sound := rfl
@[simp] theorem State.leaveIdle_memory (s : State) : (s.leaveIdle).memory = s.memory := rfl
@[simp] theorem State.leaveIdle_screen (s : State) : (s.leaveIdle).screen = s.screen := rfl
@[simp] theorem State.leaveIdle_opcode (s : State) : (s.leaveIdle).opcode = s.opcode := rfl
@[simp] theorem State.leaveIdle_mode (s : State) : (s.leaveIdle).mode = .running := rfl
@[simp] theorem State.leaveIdle_fault (s : State) : (s.leaveIdle).fault = s.fault := rfl
@[simp] theorem State.leaveIdle_inputs (s : State) : (s.leaveIdle).inputs = s.inputs := rfl
@[simp] theorem State.leaveIdle_drawReq (s : State) : (s.leaveIdle).drawReq = s.drawReq := rfl
@[simp] theorem State.leaveIdle_loadError (s : State) : (s.leaveIdle).loadError = s.loadError := rfl
@[simp] theorem State.leaveIdle_pending (s : State) : (s.leaveIdle).pending = s.pending := rfl
@[simp] theorem State.leaveIdle_draws (s : State) : (s.leaveIdle).draws = s.draws := rfl
@[simp] theorem State.leaveIdle_params (s : State) : (s.leaveIdle).params = s.params := rfl

/-! ### clearOutputs -/

@[simp] theorem State.clearOutputs_v (s : State) : (s.clearOutputs).v = s.v := rfl
@[simp] theorem State.clearOutputs_i (s : State) : (s.clearOutputs).i = s.i := rfl
@[simp] theorem State.clearOutputs_ip (s : State) : (s.clearOutputs).ip = s.ip := rfl
@[simp] theorem State.clearOutputs_stack (s : State) : (s.clearOutputs).stack = s.stack := rfl
@[simp] theorem State.clearOutputs_sp (s : State) : (s.clearOutputs).sp = s.sp := rfl
@[simp] theorem State.clearOutputs_delay (s : State) : (s.clearOutputs).delay = s.delay := rfl
@[simp] theorem State.clearOutputs_sound (s : State) : (s.clearOutputs).sound = s.sound := rfl
@[simp] theorem State.clearOutputs_memory (s : State) : (s.clearOutputs).memory = s.memory := rfl
@[simp] theorem State.clearOutputs_screen (s : State) : (s.clearOutputs).screen = s.screen := rfl
@[simp] theorem State.clearOutputs_opcode (s : State) : (s.clearOutputs).opcode = s.opcode := rfl
@[simp] theorem State.clearOutputs_mode (s : State) : (s.clearOutputs).mode = s.mode := rfl
@[simp] theorem State.clearOutputs_fault (s : State) : (s.clearOutputs).fault = s.fault := rfl
@[simp] theorem State.clearOutputs_inputs (s : State) : (s.clearOutputs).inputs = s.inputs := rfl
@[simp] theorem State.clearOutputs_drawReq (s : State) : (s.clearOutputs).drawReq = false := rfl
@[simp] theorem State.clearOutputs_loadError (s : State) : (s.clearOutputs).loadError = false := rfl
@[simp] theorem State.clearOutputs_pending (s : State) : (s.clearOutputs).pending = s.pending := rfl
@[simp] theorem State.clearOutputs_draws (s : State) : (s.clearOutputs).draws = s.draws := rfl
@[simp] theorem State.clearOutputs_params (s : State) : (s.clearOutputs).params = s.params := rfl

/-! ### fetched -/

@[simp] theorem State.fetched_v (s : State) : (s.fetched).v = s.v := rfl
@[simp] theorem State.fetched_i (s : State) : (s.fetched).i = s.i := rfl
@[simp] theorem State.fetched_ip (s : State) : (s.fetched).ip = s.ip + 2 := rfl
@[simp] theorem State.fetched_stack (s : State) : (s.fetched).stack = s.stack := rfl
@[simp] theorem State.fetched_sp (s : State) : (s.fetched).sp = s.sp := rfl
@[simp] theorem State.fetched_delay (s : State) : (s.fetched).delay = s.delay := rfl
@[simp] theorem State.fetched_sound (s : State) : (s.fetched).sound = s.sound := rfl
@[simp] theorem State.fetched_memory (s : State) : (s.fetched).memory = s.memory := rfl
@[simp] theorem State.fetched_screen (s : State) : (s.fetched).screen = s.screen := rfl
@[simp] theorem State.fetched_opcode (s : State) : (s.fetched).opcode = s.fetchWord := rfl
@[simp] theorem State.fetched_mode (s : State) : (s.fetched).mode = s.mode := rfl
@[simp] theorem State.fetched_fault (s : State) : (s.fetched).fault = s.fault := rfl
@[simp] theorem State.fetched_inputs (s : State) : (s.fetched).inputs = s.inputs := rfl
@[simp] theorem State.fetched_drawReq (s : State) : (s.fetched).drawReq = s.drawReq := rfl
@[simp] theorem State.fetched_loadError (s : State) : (s.fetched).loadError = s.loadError := rfl
@[simp] theorem State.fetched_pending (s : State) : (s.fetched).pending = s.pending := rfl
@[simp] theorem State.fetched_draws (s : State) : (s.fetched).draws = s.draws := rfl
@[simp] theorem State.fetched_params (s : State) : (s.fetched).params = s.params := rfl

/-! ### drawSprite -/

@[simp] theorem State.drawSprite_v (s : State) (px py : Byte) (rows : List Byte) : (s.drawSprite px py rows).v = s.v.set flagReg (flagByte (blitRows px.toNat py.toNat rows (s.screen, false)).2) := rfl
@[simp] theorem State.drawSprite_i (s : State) (px py : Byte) (rows : List Byte) : (s.drawSprite px py rows).i = s.i := rfl
@[simp] theorem State.drawSprite_ip (s : State) (px py : Byte) (rows : List Byte) : (s.drawSprite px py rows).ip = s.ip := rfl
@[simp] theorem State.drawSprite_stack (s : State) (px py : Byte) (rows : List Byte) : (s.drawSprite px py rows).stack = s.stack := rfl
@[simp] theorem State.drawSprite_sp (s : State) (px py : Byte) (rows : List Byte) : (s.drawSprite px py rows).sp = s.sp := rfl
@[simp] theorem State.drawSprite_delay (s : State) (px py : Byte) (rows : List Byte) : (s.drawSprite px py rows).delay = s.delay := rfl
@[simp] theorem State.drawSprite_sound (s : State) (px py : Byte) (rows : List Byte) : (s.drawSprite px py rows).sound = s.sound := rfl
@[simp] theorem State.drawSprite_memory (s : State) (px py : Byte) (rows : List Byte) : (s.drawSprite px py rows).memory = s.memory := rfl
@[simp] theorem State.drawSprite_screen (s : State) (px py : Byte) (rows : List Byte) : (s.drawSprite px py rows).screen = (blitRows px.toNat py.toNat rows (s.screen, false)).1 := rfl
@[simp] theorem State.drawSprite_opcode (s : State) (px py : Byte) (rows : List Byte) : (s.drawSprite px py rows).opcode = s.opcode := rfl
@[simp] theorem State.drawSprite_mode (s : State) (px py : Byte) (rows : List Byte) : (s.drawSprite px py rows).mode = s.mode := rfl
@[simp] theorem State.drawSprite_fault (s : State) (px py : Byte) (rows : List Byte) : (s.drawSprite px py rows).fault = s.fault := rfl
@[simp] theorem State.drawSprite_inputs (s : State) (px py : Byte) (rows : List Byte) : (s.drawSprite px py rows).inputs = s.inputs := rfl
@[simp] theorem State.drawSprite_drawReq (s : State) (px py : Byte) (rows : List Byte) : (s.drawSprite px py rows).drawReq = true := rfl
@[simp] theorem State.drawSprite_loadError (s : State) (px py : Byte) (rows : List Byte) : (s.drawSprite px py rows).loadError = s.loadError := rfl
@[simp] theorem State.drawSprite_pending (s : State) (px py : Byte) (rows : List Byte) : (s.drawSprite px py rows).pending = s.pending := rfl
@[simp] theorem State.drawSprite_draws (s : State) (px py : Byte) (rows : List Byte) : (s.drawSprite px py rows).draws = s.draws := rfl
@[simp] theorem State.drawSprite_params (s : State) (px py : Byte) (rows : List Byte) : (s.drawSprite px py rows).params = s.params := rfl

/-! ### resetCells -/

@[simp] theorem State.resetCells_v (s : State) : (s.resetCells).v = Vector.replicate 16 0 := rfl
@[simp] theorem State.resetCells_i (s : State) : (s.resetCells).i = 0 := rfl
@[simp] theorem State.resetCells_ip (s : State) : (s.resetCells).ip = 0x200 := rfl
@[simp] theorem State.resetCells_stack (s : State) : (s.resetCells).stack = Vector.replicate 16 0 := rfl
@[simp] theorem State.resetCells_sp (s : State) : (s.resetCells).sp = 0 := rfl
@[simp] theorem State.resetCells_delay (s : State) : (s.resetCells).delay = 0 := rfl
@[simp] theorem State.resetCells_sound (s : State) : (s.resetCells).sound = 0 := rfl
@[simp] theorem State.resetCells_memory (s : State) : (s.resetCells).memory = [] := rfl
@[simp] theorem State.resetCells_screen (s : State) : (s.resetCells).screen = Vector.replicate 32 0 := rfl
@[simp] theorem State.resetCells_opcode (s : State) : (s.resetCells).opcode = 0 := rfl
@[simp] theorem State.resetCells_mode (s : State) : (s.resetCells).mode = .running := rfl
@[simp] theorem State.resetCells_fault (s : State) : (s.resetCells).fault = none := rfl
@[simp] theorem State.resetCells_inputs (s : State) : (s.resetCells).inputs = s.inputs := rfl
@[simp] theorem State.resetCells_drawReq (s : State) : (s.resetCells).drawReq = false := rfl
@[simp] theorem State.resetCells_loadError (s : State) : (s.resetCells).loadError = false := rfl
@[simp] theorem State.resetCells_pending (s : State) : (s.resetCells).pending = s.pending := rfl
@[simp] theorem State.resetCells_draws (s : State) : (s.resetCells).draws = s.draws := rfl
@[simp] theorem State.resetCells_params (s : State) : (s.resetCells).params = s.params := rfl

/-! ### setFlag -/

@[simp] theorem State.setFlag_v (s : State) (c : Bool) : (s.setFlag c).v = s.v.set flagReg (flagByte c) := rfl
@[simp] theorem State.setFlag_i (s : State) (c : Bool) : (s.setFlag c).i = s.i := rfl
@[simp] theorem State.setFlag_ip (s : State) (c : Bool) : (s.setFlag c).ip = s.ip := rfl
@[simp] theorem State.setFlag_stack (s : State) (c : Bool) : (s.setFlag c).stack = s.stack := rfl
@[simp] theorem State.setFlag_sp (s : State) (c : Bool) : (s.setFlag c).sp = s.sp := rfl
@[simp] theorem State.setFlag_delay (s : State) (c : Bool) : (s.setFlag c).delay = s.delay := rfl
@[simp] theorem State.setFlag_sound (s : State) (c : Bool) : (s.setFlag c).sound = s.sound := rfl
@[simp] theorem State.setFlag_memory (s : State) (c : Bool) : (s.setFlag c).memory = s.memory := rfl
@[simp] theorem State.setFlag_screen (s : State) (c : Bool) : (s.setFlag c).screen = s.screen := rfl
@[simp] theorem State.setFlag_opcode (s : State) (c : Bool) : (s.setFlag c).opcode = s.opcode := rfl
@[simp] theorem State.setFlag_mode (s : State) (c : Bool) : (s.setFlag c).mode = s.mode := rfl
@[simp] theorem State.setFlag_fault (s : State) (c : Bool) : (s.setFlag c).fault = s.fault := rfl
@[simp] theorem State.setFlag_inputs (s : State) (c : Bool) : (s.setFlag c).inputs = s.inputs := rfl
@[simp] theorem State.setFlag_drawReq (s : State) (c : Bool) : (s.setFlag c).drawReq = s.drawReq := rfl
@[simp] theorem State.setFlag_loadError (s : State) (c : Bool) : (s.setFlag c).loadError = s.loadError := rfl
@[simp] theorem State.setFlag_pending (s : State) (c : Bool) : (s.setFlag c).pending = s.pending := rfl
@[simp] theorem State.setFlag_draws (s : State) (c : Bool) : (s.setFlag c).draws = s.draws := rfl
@[simp] theorem State.setFlag_params (s : State) (c : Bool) : (s.setFlag c).params = s.params := rfl

/-! ### withRand -/

@[simp] theorem State.withRand_v (s : State) (b : Byte) : (s.withRand b).v = s.v := rfl
@[simp] theorem State.withRand_i (s : State) (b : Byte) : (s.withRand b).i = s.i := rfl
@[simp] theorem State.withRand_ip (s : State) (b : Byte) : (s.withRand b).ip = s.ip := rfl
@[simp] theorem State.withRand_stack (s : State) (b : Byte) : (s.withRand b).stack = s.stack := rfl
@[simp] theorem State.withRand_sp (s : State) (b : Byte) : (s.withRand b).sp = s.sp := rfl
@[simp] theorem State.withRand_delay (s : State) (b : Byte) : (s.withRand b).delay = s.delay := rfl
@[simp] theorem State.withRand_sound (s : State) (b : Byte) : (s.withRand b).sound = s.sound := rfl
@[simp] theorem State.withRand_memory (s : State) (b : Byte) : (s.withRand b).memory = s.memory := rfl
@[simp] theorem State.withRand_screen (s : State) (b : Byte) : (s.withRand b).screen = s.screen := rfl
@[simp] theorem State.withRand_opcode (s : State) (b : Byte) : (s.withRand b).opcode = s.opcode := rfl
@[simp] theorem State.withRand_mode (s : State) (b : Byte) : (s.withRand b).mode = s.mode := rfl
@[simp] theorem State.withRand_fault (s : State) (b : Byte) : (s.withRand b).fault = s.fault := rfl
@[simp] theorem State.withRand_inputs (s : State) (b : Byte) : (s.withRand b).inputs = { s.inputs with rand := b } := rfl
@[simp] theorem State.withRand_drawReq (s : State) (b : Byte) : (s.withRand b).drawReq = s.drawReq := rfl
@[simp] theorem State.withRand_loadError (s : State) (b : Byte) : (s.withRand b).loadError = s.loadError := rfl
@[simp] theorem State.withRand_pending (s : State) (b : Byte) : (s.withRand b).pending = s.pending := rfl
@[simp] theorem State.withRand_draws (s : State) (b : Byte) : (s.withRand b).draws = s.draws := rfl
@[simp] theorem State.withRand_params (s : State) (b : Byte) : (s.withRand b).params = s.params := rfl

/-! ### withKeys -/

@[simp] theorem State.withKeys_v (s : State) (keys : BitVec 16) (pick : Nat) : (s.withKeys keys pick).v = s.v := rfl
@[simp] theorem State.withKeys_i (s : State) (keys : BitVec 16) (pick : Nat) : (s.withKeys keys pick).i = s.i := rfl
@[simp] theorem State.withKeys_ip (s : State) (keys : BitVec 16) (pick : Nat) : (s.withKeys keys pick).ip = s.ip := rfl
@[simp] theorem State.withKeys_stack (s : State) (keys : BitVec 16) (pick : Nat) : (s.withKeys keys pick).stack = s.stack := rfl
@[simp] theorem State.withKeys_sp (s : State) (keys : BitVec 16) (pick : Nat) : (s.withKeys keys pick).sp = s.sp := rfl
@[simp] theorem State.withKeys_delay (s : State) (keys : BitVec 16) (pick : Nat) : (s.withKeys keys pick).delay = s.delay := rfl
@[simp] theorem State.withKeys_sound (s : State) (keys : BitVec 16) (pick : Nat) : (s.withKeys keys pick).sound = s.sound := rfl
@[simp] theorem State.withKeys_memory (s : State) (keys : BitVec 16) (pick : Nat) : (s.withKeys keys pick).memory = s.memory := rfl
@[simp] theorem State.withKeys_screen (s : State) (keys : BitVec 16) (pick : Nat) : (s.withKeys keys pick).screen = s.screen := rfl
@[simp] theorem State.withKeys_opcode (s : State) (keys : BitVec 16) (pick : Nat) : (s.withKeys keys pick).opcode = s.opcode := rfl
@[simp] theorem State.withKeys_mode (s : State) (keys : BitVec 16) (pick : Nat) : (s.withKeys keys pick).mode = s.mode := rfl
@[simp] theorem State.withKeys_fault (s : State) (keys : BitVec 16) (pick : Nat) : (s.withKeys keys pick).fault = s.fault := rfl
@[simp] theorem State.withKeys_inputs (s : State) (keys : BitVec 16) (pick : Nat) : (s.withKeys keys pick).inputs = { s.inputs with keys := keys, pick := pick } := rfl
@[simp] theorem State.withKeys_drawReq (s : State) (keys : BitVec 16) (pick : Nat) : (s.withKeys keys pick).drawReq = s.drawReq := rfl
@[simp] theorem State.withKeys_loadError (s : State) (keys : BitVec 16) (pick : Nat) : (s.withKeys keys pick).loadError = s.loadError := rfl
@[simp] theorem State.withKeys_pending (s : State) (keys : BitVec 16) (pick : Nat) : (s.withKeys keys pick).pending = s.pending := rfl
@[simp] theorem State.withKeys_draws (s : State) (keys : BitVec 16) (pick : Nat) : (s.withKeys keys pick).draws = s.draws := rfl
@[simp] theorem State.withKeys_params (s : State) (keys : BitVec 16) (pick : Nat) : (s.withKeys keys pick).params = s.params := rfl

/-! ### keepPulses -/

@[simp] theorem State.keepPulses_v (s t : State) : (s.keepPulses t).v = t.v := rfl
@[simp] theorem State.keepPulses_i (s t : State) : (s.keepPulses t).i = t.i := rfl
@[simp] theorem State.keepPulses_ip (s t : State) : (s.keepPulses t).ip = t.ip := rfl
@[simp] theorem State.keepPulses_stack (s t : State) : (s.keepPulses t).stack = t.stack := rfl
@[simp] theorem State.keepPulses_sp (s t : State) : (s.keepPulses t).sp = t.sp := rfl
@[simp] theorem State.keepPulses_delay (s t : State) : (s.keepPulses t).delay = t.delay := rfl
@[simp] theorem State.keepPulses_sound (s t : State) : (s.keepPulses t).sound = t.sound := rfl
@[simp] theorem State.keepPulses_memory (s t : State) : (s.keepPulses t).memory = t.memory := rfl
@[simp] theorem State.keepPulses_screen (s t : State) : (s.keepPulses t).screen = t.screen := rfl
@[simp] theorem State.keepPulses_opcode (s t : State) : (s.keepPulses t).opcode = t.opcode := rfl
@[simp] theorem State.keepPulses_mode (s t : State) : (s.keepPulses t).mode = t.mode := rfl
@[simp] theorem State.keepPulses_fault (s t : State) : (s.keepPulses t).fault = t.fault := rfl
@[simp] theorem State.keepPulses_inputs (s t : State) : (s.keepPulses t).inputs = t.inputs := rfl
@[simp] theorem State.keepPulses_drawReq (s t : State) : (s.keepPulses t).drawReq = (s.drawReq || t.drawReq) := rfl
@[simp] theorem State.keepPulses_loadError (s t : State) : (s.keepPulses t).loadError = (s.loadError || t.loadError) := rfl
@[simp] theorem State.keepPulses_pending (s t : State) : (s.keepPulses t).pending = t.pending := rfl
@[simp] theorem State.keepPulses_draws (s t : State) : (s.keepPulses t).draws = t.draws := rfl
@[simp] theorem State.keepPulses_params (s t : State) : (s.keepPulses t).params = t.params := rfl

end Sys2Proof.Machine
end

