-- ==== Sys2Proof/Laws/Ops.lean ====
section
/-! SUPPORT. One lemma per shared operation, saying everything it can do. -/

namespace Sys2Proof.Machine

/-! ## Registers -/

@[simp] theorem reg_setReg_same (s : State) (x : RegNum) (b : Byte) : (s.setReg x b).reg x = b := by
  simp [State.reg, State.setReg]

theorem reg_setReg_other (s : State) {x k : RegNum} (b : Byte) (h : k ≠ x) : (s.setReg x b).reg k = s.reg k := by
  have : x.val ≠ k.val := fun e => h (Fin.ext e.symm)
  simp [State.reg, State.setReg, this]

theorem reg_setReg (s : State) (x k : RegNum) (b : Byte) :
    (s.setReg x b).reg k = if k = x then b else s.reg k := by
  split
  · subst_vars; simp
  · exact reg_setReg_other s b ‹_›

@[simp] theorem reg_setFlag_same (s : State) (c : Bool) : (s.setFlag c).reg flagReg = flagByte c := by
  simp [State.setFlag]

/-- Registers depend on nothing but the register file. -/
theorem reg_congr {s t : State} (h : s.v = t.v) (k : RegNum) : s.reg k = t.reg k := by
  simp [State.reg, h]

@[simp] theorem flagByte_toNat (c : Bool) : (flagByte c).toNat = if c then 1 else 0 := by
  cases c <;> rfl

/-- What the `k`-th register holds after consecutive registers from `j` are written. -/
theorem getElem_setRegsFrom (v : Vector Byte 16) (j : Nat) (bs : List Byte) (k : RegNum) :
    (setRegsFrom v j bs)[k] = if j ≤ k.val then (bs[k.val - j]?).getD v[k] else v[k] := by
  induction bs generalizing v j with
  | nil => simp [setRegsFrom]
  | cons b bs ih =>
    have hk := k.isLt
    simp only [setRegsFrom, ih]
    by_cases hjk : j = k.val
    · simp [hjk]
    · by_cases hle : j ≤ k.val
      · have h1 : j + 1 ≤ k.val := by omega
        obtain ⟨d, hd⟩ : ∃ d, k.val - j = d + 1 := ⟨k.val - j - 1, by omega⟩
        have hd' : k.val - (j + 1) = d := by omega
        simp [hle, h1, hd, hd', hjk]
      · have h1 : ¬ j + 1 ≤ k.val := by omega
        simp [hle, h1, hjk]

theorem reg_setRegs (s : State) (bs : List Byte) (k : RegNum) :
    (s.setRegs bs).reg k = (bs[k.val]?).getD (s.reg k) := by
  have := getElem_setRegsFrom s.v 0 bs k
  simpa [State.reg, State.setRegs] using this

@[simp] theorem length_regsUpTo (s : State) (x : RegNum) : (s.regsUpTo x).length = x.val + 1 := by
  have := x.isLt
  simp [State.regsUpTo]

/-- The `k`-th byte of the register range is `V[k]`. -/
theorem getElem?_regsUpTo (s : State) (x k : RegNum) (h : k ≤ x) : (s.regsUpTo x)[k.val]? = some (s.reg k) := by
  have h1 : k.val < x.val + 1 := by have : k.val ≤ x.val := h; omega
  simp [State.regsUpTo, State.reg, h1]

@[simp] theorem length_decimalDigits (b : Byte) : (decimalDigits b).length = 3 := rfl

@[simp] theorem length_loadAtI (s : State) (n : Nat) : (s.loadAtI n).length = n := by simp [State.loadAtI]

/-! ## Data access -/

theorem dataInRange_iff (s : State) (count : Nat) :
    s.dataInRange count = true ↔ count = 0 ∨ s.i.toNat + count ≤ 4096 := by
  simp only [State.dataInRange, Bool.or_eq_true, decide_eq_true_eq]
  exact Iff.rfl

/-- A data instruction either runs its body in range or raises `DataOutOfRange(I)` and nothing else. -/
theorem withData_cases (s : State) (count : Nat) (body : State) :
    ((count = 0 ∨ s.i.toNat + count ≤ 4096) ∧ s.withData count body = body) ∨
      (count ≠ 0 ∧ 4096 < s.i.toNat + count ∧ s.withData count body = s.raise (.dataOutOfRange s.i)) := by
  unfold State.withData
  split
  · exact .inl ⟨(dataInRange_iff s count).1 ‹_›, rfl⟩
  · have h := mt (dataInRange_iff s count).2 ‹_›
    exact .inr ⟨by omega, by omega, rfl⟩

theorem withData_inRange {s : State} {count : Nat} (body : State) (h : count = 0 ∨ s.i.toNat + count ≤ 4096) :
    s.withData count body = body := by
  simp [State.withData, (dataInRange_iff s count).2 h]

theorem withData_outOfRange {s : State} {count : Nat} (body : State) (h : count ≠ 0)
    (h' : 4096 < s.i.toNat + count) : s.withData count body = s.raise (.dataOutOfRange s.i) := by
  rcases withData_cases s count body with ⟨h1, _⟩ | ⟨_, _, h2⟩
  · omega
  · exact h2

/-- Where the range holds, the stored bytes lie in memory. -/
theorem wf_storeAtI {s : State} {bs : List Byte} (h : s.memory.wf = true) (hb : s.i.toNat + bs.length ≤ 4096) :
    (s.storeAtI bs).memory.wf = true :=
  Memory.wf_writeBytes h hb

/-! ## Flag writers -/

/-- A flag-writing instruction runs, but for the form that names `VF` as `Vx` under `VF_ALIAS_POLICY = refuse`. -/
theorem flagWriter_next {s : State} {x : RegNum} (body : State) (h : s.params.vfAlias = .listedOrder ∨ x ≠ flagReg) :
    s.flagWriter x body = .next body := by
  unfold State.flagWriter
  split
  · rename_i hc
    rcases h with h | h
    · rw [h] at hc; exact absurd hc.1 (by decide)
    · exact absurd hc.2 h
  · rfl

/-- What a flag-writing instruction can answer. -/
theorem flagWriter_cases (s : State) (x : RegNum) (body : State) :
    s.flagWriter x body = .next body ∨
      (s.params.vfAlias = .refuse ∧ x = flagReg ∧ s.flagWriter x body = .refused .flagRegisterAsDestination) := by
  unfold State.flagWriter
  split
  · exact .inr ⟨by tauto, by tauto, rfl⟩
  · exact .inl rfl

/-- Where a flag-writing instruction answers a next state, it is its body. -/
theorem flagWriter_inv {s t body : State} {x : RegNum} (h : s.flagWriter x body = .next t) : t = body := by
  rcases flagWriter_cases s x body with e | ⟨-, -, e⟩
  · rw [e] at h; cases h; rfl
  · rw [e] at h; cases h

/-! ## The call stack -/

/-- A call pushes and jumps, or overflows. -/
theorem callTo_cases (s : State) (target : Word) :
    (∃ h : s.sp.val < 16, s.callTo target =
        { s with stack := s.stack.set s.sp.val s.ip, sp := ⟨s.sp.val + 1, by omega⟩, ip := target }) ∨
      (s.sp = 16 ∧ s.callTo target = s.raise .stackOverflow) := by
  unfold State.callTo
  split
  · exact .inl ⟨‹_›, rfl⟩
  · have := s.sp.isLt
    exact .inr ⟨Fin.ext (show s.sp.val = 16 by omega), rfl⟩

/-- A return pops, or underflows. -/
theorem returnFromCall_cases (s : State) :
    (∃ h : 0 < s.sp.val, s.returnFromCall =
        { s with ip := s.stack[s.sp.val - 1], sp := ⟨s.sp.val - 1, by omega⟩ }) ∨
      (s.sp = 0 ∧ s.returnFromCall = s.raise .stackUnderflow) := by
  unfold State.returnFromCall
  split
  · exact .inl ⟨‹_›, rfl⟩
  · exact .inr ⟨Fin.ext (show s.sp.val = 0 by omega), rfl⟩

/-! ## Keys and glyphs -/

/-- A key skip moves `ip` or raises `KeyIndexOutOfRange`. -/
theorem skipOnKey_cases (s : State) (x : RegNum) (wanted : Bool) :
    (∃ p, keyPressed s.params.keyId s.inputs.keys (s.reg x) = some p ∧
        s.skipOnKey x wanted = s.skipIf (p == wanted)) ∨
      (15 < (s.reg x).toNat ∧ s.params.keyId = .fault ∧
        s.skipOnKey x wanted = s.raise (.keyIndexOutOfRange (s.reg x))) := by
  unfold State.skipOnKey
  cases h : keyPressed s.params.keyId s.inputs.keys (s.reg x) with
  | some p => exact .inl ⟨p, rfl, rfl⟩
  | none =>
    unfold keyPressed at h
    split at h
    · simp at h
    · refine .inr ⟨by omega, ?_, rfl⟩
      cases hp : s.params.keyId <;> simp_all

/-- `Fx29` sets `I` or raises `GlyphIndexOutOfRange`. -/
theorem pointAtGlyph_cases (s : State) (x : RegNum) :
    (∃ a, glyphOperand s.params.glyphId (s.reg x) = some a ∧ s.pointAtGlyph x = s.setI a) ∨
      (15 < (s.reg x).toNat ∧ s.params.glyphId = .fault ∧
        s.pointAtGlyph x = s.raise (.glyphIndexOutOfRange (s.reg x))) := by
  unfold State.pointAtGlyph
  cases h : glyphOperand s.params.glyphId (s.reg x) with
  | some p => exact .inl ⟨p, rfl, rfl⟩
  | none =>
    unfold glyphOperand at h
    split at h
    · simp at h
    · refine .inr ⟨by omega, ?_, rfl⟩
      cases hp : s.params.glyphId <;> simp_all

theorem mem_keyNumbers (k : Fin 16) : k ∈ keyNumbers := by revert k; decide

theorem mem_pressedKeys (keys : BitVec 16) (k : Fin 16) : k ∈ pressedKeys keys ↔ keys.getLsbD k.val = true := by
  simp [pressedKeys, mem_keyNumbers]

/-- The key `Fx0A` takes is one of the pressed ones. -/
theorem pickKey_mem {policy : KeyPick} {pick : Nat} {ks : List (Fin 16)} {k : Fin 16}
    (h : pickKey policy pick ks = some k) : k ∈ ks := by
  unfold pickKey at h
  split at h
  · simp at h
  · simp_all
  · split at h
    · simp_all
    · exact List.mem_of_getElem? h

/-- `Fx0A` takes no key exactly when none is pressed. -/
theorem pickKey_eq_none {policy : KeyPick} {pick : Nat} {ks : List (Fin 16)} :
    pickKey policy pick ks = none ↔ ks = [] := by
  unfold pickKey
  split
  · simp
  · simp
  · rename_i k k' ks
    split
    · simp
    · have := Nat.mod_lt pick (show 0 < (k :: k' :: ks).length by simp)
      simp only [List.getElem?_eq_none_iff, reduceCtorEq, iff_false]
      omega

/-- `Fx0A` takes a key or moves `ip` back. -/
theorem takeKey_cases (s : State) (x : RegNum) :
    (s.inputs.keys = 0 ∧ s.takeKey x = s.setIp (s.ip - 2)) ∨
      (∃ k : Fin 16, s.inputs.keys.getLsbD k.val = true ∧
        pickKey s.params.keyPick s.inputs.pick (pressedKeys s.inputs.keys) = some k ∧
        s.takeKey x = s.setReg x (BitVec.ofNat 8 k.val)) := by
  unfold State.takeKey
  cases h : pickKey s.params.keyPick s.inputs.pick (pressedKeys s.inputs.keys) with
  | some k => exact .inr ⟨k, (mem_pressedKeys _ _).1 (pickKey_mem h), rfl, rfl⟩
  | none =>
    refine .inl ⟨?_, rfl⟩
    have h0 := pickKey_eq_none.1 h
    apply BitVec.eq_of_getLsbD_eq
    intro i hi
    have hn : (⟨i, hi⟩ : Fin 16) ∉ pressedKeys s.inputs.keys := by simp [h0]
    rw [mem_pressedKeys] at hn
    simpa using hn

end Sys2Proof.Machine
end

