-- ==== Sys2Proof/Laws/Exec.lean ====
section
/-! SUPPORT. Each arm of `exec`, as an equation. -/

namespace Sys2Proof.Machine

@[simp] theorem exec_cls (s : State) : exec .cls s = execCls s := rfl
@[simp] theorem exec_ret (s : State) : exec .ret s = execRet s := rfl
@[simp] theorem exec_jp (nnn : Addr12) (s : State) : exec (.jp nnn) s = execJp nnn s := rfl
@[simp] theorem exec_call (nnn : Addr12) (s : State) : exec (.call nnn) s = execCall nnn s := rfl
@[simp] theorem exec_seImm (x : RegNum) (kk : Byte) (s : State) : exec (.seImm x kk) s = execSeImm x kk s := rfl
@[simp] theorem exec_sneImm (x : RegNum) (kk : Byte) (s : State) : exec (.sneImm x kk) s = execSneImm x kk s := rfl
@[simp] theorem exec_seReg (x y : RegNum) (s : State) : exec (.seReg x y) s = execSeReg x y s := rfl
@[simp] theorem exec_ldImm (x : RegNum) (kk : Byte) (s : State) : exec (.ldImm x kk) s = execLdImm x kk s := rfl
@[simp] theorem exec_addImm (x : RegNum) (kk : Byte) (s : State) : exec (.addImm x kk) s = execAddImm x kk s := rfl
@[simp] theorem exec_ldReg (x y : RegNum) (s : State) : exec (.ldReg x y) s = execLdReg x y s := rfl
@[simp] theorem exec_orReg (x y : RegNum) (s : State) : exec (.orReg x y) s = execOrReg x y s := rfl
@[simp] theorem exec_andReg (x y : RegNum) (s : State) : exec (.andReg x y) s = execAndReg x y s := rfl
@[simp] theorem exec_xorReg (x y : RegNum) (s : State) : exec (.xorReg x y) s = execXorReg x y s := rfl
@[simp] theorem exec_addReg (x y : RegNum) (s : State) : exec (.addReg x y) s = execAddReg x y s := rfl
@[simp] theorem exec_subReg (x y : RegNum) (s : State) : exec (.subReg x y) s = execSubReg x y s := rfl
@[simp] theorem exec_shr (x y : RegNum) (s : State) : exec (.shr x y) s = execShr x y s := rfl
@[simp] theorem exec_subnReg (x y : RegNum) (s : State) : exec (.subnReg x y) s = execSubnReg x y s := rfl
@[simp] theorem exec_shl (x y : RegNum) (s : State) : exec (.shl x y) s = execShl x y s := rfl
@[simp] theorem exec_sneReg (x y : RegNum) (s : State) : exec (.sneReg x y) s = execSneReg x y s := rfl
@[simp] theorem exec_ldI (nnn : Addr12) (s : State) : exec (.ldI nnn) s = execLdI nnn s := rfl
@[simp] theorem exec_jpV0 (nnn : Addr12) (s : State) : exec (.jpV0 nnn) s = execJpV0 nnn s := rfl
@[simp] theorem exec_rnd (x : RegNum) (kk : Byte) (s : State) : exec (.rnd x kk) s = execRnd x kk s := rfl
@[simp] theorem exec_drw (x y : RegNum) (n : Nat) (s : State) : exec (.drw x y n) s = execDrw x y n s := rfl
@[simp] theorem exec_skp (x : RegNum) (s : State) : exec (.skp x) s = execSkp x s := rfl
@[simp] theorem exec_sknp (x : RegNum) (s : State) : exec (.sknp x) s = execSknp x s := rfl
@[simp] theorem exec_ldVxDT (x : RegNum) (s : State) : exec (.ldVxDT x) s = execLdVxDT x s := rfl
@[simp] theorem exec_ldVxK (x : RegNum) (s : State) : exec (.ldVxK x) s = execLdVxK x s := rfl
@[simp] theorem exec_ldDTVx (x : RegNum) (s : State) : exec (.ldDTVx x) s = execLdDTVx x s := rfl
@[simp] theorem exec_ldSTVx (x : RegNum) (s : State) : exec (.ldSTVx x) s = execLdSTVx x s := rfl
@[simp] theorem exec_addIVx (x : RegNum) (s : State) : exec (.addIVx x) s = execAddIVx x s := rfl
@[simp] theorem exec_ldFVx (x : RegNum) (s : State) : exec (.ldFVx x) s = execLdFVx x s := rfl
@[simp] theorem exec_ldBVx (x : RegNum) (s : State) : exec (.ldBVx x) s = execLdBVx x s := rfl
@[simp] theorem exec_ldMemVx (x : RegNum) (s : State) : exec (.ldMemVx x) s = execLdMemVx x s := rfl
@[simp] theorem exec_ldVxMem (x : RegNum) (s : State) : exec (.ldVxMem x) s = execLdVxMem x s := rfl

end Sys2Proof.Machine
end

