-- ==== Sys2Proof/Laws/PerInstr.lean ====
section
/-! SUPPORT. Statements made once per instruction: the encoding of each instruction lies in its own row of the opcode
map (spec 30_encoding.md R64). -/

namespace Sys2Proof.Laws

/-- The instruction's row is in the opcode map and its encoding matches that row. -/
def EncodeInRow.Statement (i : Instr) : Prop := i.row ∈ opcodeTable ∧ i.row.matches (encode i) = true

/-! ## One lemma per mask -/

theorem matches_F000 {pattern w : Word} (h : encodeXYN (opField w) 0 0 0 = pattern) :
    (OpcodeRow.mk pattern 0xF000).matches w = true := by
  rw [OpcodeRow.matches, and_F000, h]; exact beq_self_eq_true _

theorem matches_F00F {pattern w : Word} (h : encodeXYN (opField w) 0 0 (BitVec.ofNat 4 (nField w)) = pattern) :
    (OpcodeRow.mk pattern 0xF00F).matches w = true := by
  rw [OpcodeRow.matches, and_F00F, h]; exact beq_self_eq_true _

theorem matches_F0FF {pattern w : Word} (h : encodeXKK (opField w) 0 (kkField w) = pattern) :
    (OpcodeRow.mk pattern 0xF0FF).matches w = true := by
  rw [OpcodeRow.matches, and_F0FF, h]; exact beq_self_eq_true _

/-! ## One lemma per instruction -/

theorem EncodeInRow.cls : EncodeInRow.Statement .cls := ⟨by decide, by decide⟩

theorem EncodeInRow.ret : EncodeInRow.Statement .ret := ⟨by decide, by decide⟩

theorem EncodeInRow.jp (nnn : Addr12) : EncodeInRow.Statement (.jp nnn) :=
  ⟨show (⟨0x1000, 0xF000⟩ : OpcodeRow) ∈ opcodeTable by decide,
   matches_F000 (by rw [encode]; simp only [opField_encodeNNN]; decide)⟩

theorem EncodeInRow.call (nnn : Addr12) : EncodeInRow.Statement (.call nnn) :=
  ⟨show (⟨0x2000, 0xF000⟩ : OpcodeRow) ∈ opcodeTable by decide,
   matches_F000 (by rw [encode]; simp only [opField_encodeNNN]; decide)⟩

theorem EncodeInRow.seImm (x : RegNum) (kk : Byte) : EncodeInRow.Statement (.seImm x kk) :=
  ⟨show (⟨0x3000, 0xF000⟩ : OpcodeRow) ∈ opcodeTable by decide,
   matches_F000 (by rw [encode]; simp only [opField_encodeXKK]; decide)⟩

theorem EncodeInRow.sneImm (x : RegNum) (kk : Byte) : EncodeInRow.Statement (.sneImm x kk) :=
  ⟨show (⟨0x4000, 0xF000⟩ : OpcodeRow) ∈ opcodeTable by decide,
   matches_F000 (by rw [encode]; simp only [opField_encodeXKK]; decide)⟩

theorem EncodeInRow.seReg (x y : RegNum) : EncodeInRow.Statement (.seReg x y) :=
  ⟨show (⟨0x5000, 0xF00F⟩ : OpcodeRow) ∈ opcodeTable by decide,
   matches_F00F (by rw [encode]; simp only [opField_encodeXYN, nField_encodeXYN]; decide)⟩

theorem EncodeInRow.ldImm (x : RegNum) (kk : Byte) : EncodeInRow.Statement (.ldImm x kk) :=
  ⟨show (⟨0x6000, 0xF000⟩ : OpcodeRow) ∈ opcodeTable by decide,
   matches_F000 (by rw [encode]; simp only [opField_encodeXKK]; decide)⟩

theorem EncodeInRow.addImm (x : RegNum) (kk : Byte) : EncodeInRow.Statement (.addImm x kk) :=
  ⟨show (⟨0x7000, 0xF000⟩ : OpcodeRow) ∈ opcodeTable by decide,
   matches_F000 (by rw [encode]; simp only [opField_encodeXKK]; decide)⟩

theorem EncodeInRow.ldReg (x y : RegNum) : EncodeInRow.Statement (.ldReg x y) :=
  ⟨show (⟨0x8000, 0xF00F⟩ : OpcodeRow) ∈ opcodeTable by decide,
   matches_F00F (by rw [encode]; simp only [opField_encodeXYN, nField_encodeXYN]; decide)⟩

theorem EncodeInRow.orReg (x y : RegNum) : EncodeInRow.Statement (.orReg x y) :=
  ⟨show (⟨0x8001, 0xF00F⟩ : OpcodeRow) ∈ opcodeTable by decide,
   matches_F00F (by rw [encode]; simp only [opField_encodeXYN, nField_encodeXYN]; decide)⟩

theorem EncodeInRow.andReg (x y : RegNum) : EncodeInRow.Statement (.andReg x y) :=
  ⟨show (⟨0x8002, 0xF00F⟩ : OpcodeRow) ∈ opcodeTable by decide,
   matches_F00F (by rw [encode]; simp only [opField_encodeXYN, nField_encodeXYN]; decide)⟩

theorem EncodeInRow.xorReg (x y : RegNum) : EncodeInRow.Statement (.xorReg x y) :=
  ⟨show (⟨0x8003, 0xF00F⟩ : OpcodeRow) ∈ opcodeTable by decide,
   matches_F00F (by rw [encode]; simp only [opField_encodeXYN, nField_encodeXYN]; decide)⟩

theorem EncodeInRow.addReg (x y : RegNum) : EncodeInRow.Statement (.addReg x y) :=
  ⟨show (⟨0x8004, 0xF00F⟩ : OpcodeRow) ∈ opcodeTable by decide,
   matches_F00F (by rw [encode]; simp only [opField_encodeXYN, nField_encodeXYN]; decide)⟩

theorem EncodeInRow.subReg (x y : RegNum) : EncodeInRow.Statement (.subReg x y) :=
  ⟨show (⟨0x8005, 0xF00F⟩ : OpcodeRow) ∈ opcodeTable by decide,
   matches_F00F (by rw [encode]; simp only [opField_encodeXYN, nField_encodeXYN]; decide)⟩

theorem EncodeInRow.shr (x y : RegNum) : EncodeInRow.Statement (.shr x y) :=
  ⟨show (⟨0x8006, 0xF00F⟩ : OpcodeRow) ∈ opcodeTable by decide,
   matches_F00F (by rw [encode]; simp only [opField_encodeXYN, nField_encodeXYN]; decide)⟩

theorem EncodeInRow.subnReg (x y : RegNum) : EncodeInRow.Statement (.subnReg x y) :=
  ⟨show (⟨0x8007, 0xF00F⟩ : OpcodeRow) ∈ opcodeTable by decide,
   matches_F00F (by rw [encode]; simp only [opField_encodeXYN, nField_encodeXYN]; decide)⟩

theorem EncodeInRow.shl (x y : RegNum) : EncodeInRow.Statement (.shl x y) :=
  ⟨show (⟨0x800E, 0xF00F⟩ : OpcodeRow) ∈ opcodeTable by decide,
   matches_F00F (by rw [encode]; simp only [opField_encodeXYN, nField_encodeXYN]; decide)⟩

theorem EncodeInRow.sneReg (x y : RegNum) : EncodeInRow.Statement (.sneReg x y) :=
  ⟨show (⟨0x9000, 0xF00F⟩ : OpcodeRow) ∈ opcodeTable by decide,
   matches_F00F (by rw [encode]; simp only [opField_encodeXYN, nField_encodeXYN]; decide)⟩

theorem EncodeInRow.ldI (nnn : Addr12) : EncodeInRow.Statement (.ldI nnn) :=
  ⟨show (⟨0xA000, 0xF000⟩ : OpcodeRow) ∈ opcodeTable by decide,
   matches_F000 (by rw [encode]; simp only [opField_encodeNNN]; decide)⟩

theorem EncodeInRow.jpV0 (nnn : Addr12) : EncodeInRow.Statement (.jpV0 nnn) :=
  ⟨show (⟨0xB000, 0xF000⟩ : OpcodeRow) ∈ opcodeTable by decide,
   matches_F000 (by rw [encode]; simp only [opField_encodeNNN]; decide)⟩

theorem EncodeInRow.rnd (x : RegNum) (kk : Byte) : EncodeInRow.Statement (.rnd x kk) :=
  ⟨show (⟨0xC000, 0xF000⟩ : OpcodeRow) ∈ opcodeTable by decide,
   matches_F000 (by rw [encode]; simp only [opField_encodeXKK]; decide)⟩

theorem EncodeInRow.drw (x y : RegNum) (n : Nat) : EncodeInRow.Statement (.drw x y n) :=
  ⟨show (⟨0xD000, 0xF000⟩ : OpcodeRow) ∈ opcodeTable by decide,
   matches_F000 (by rw [encode]; simp only [opField_encodeXYN]; decide)⟩

theorem EncodeInRow.skp (x : RegNum) : EncodeInRow.Statement (.skp x) :=
  ⟨show (⟨0xE09E, 0xF0FF⟩ : OpcodeRow) ∈ opcodeTable by decide,
   matches_F0FF (by rw [encode]; simp only [opField_encodeXKK, kkField_encodeXKK]; decide)⟩

theorem EncodeInRow.sknp (x : RegNum) : EncodeInRow.Statement (.sknp x) :=
  ⟨show (⟨0xE0A1, 0xF0FF⟩ : OpcodeRow) ∈ opcodeTable by decide,
   matches_F0FF (by rw [encode]; simp only [opField_encodeXKK, kkField_encodeXKK]; decide)⟩

theorem EncodeInRow.ldVxDT (x : RegNum) : EncodeInRow.Statement (.ldVxDT x) :=
  ⟨show (⟨0xF007, 0xF0FF⟩ : OpcodeRow) ∈ opcodeTable by decide,
   matches_F0FF (by rw [encode]; simp only [opField_encodeXKK, kkField_encodeXKK]; decide)⟩

theorem EncodeInRow.ldVxK (x : RegNum) : EncodeInRow.Statement (.ldVxK x) :=
  ⟨show (⟨0xF00A, 0xF0FF⟩ : OpcodeRow) ∈ opcodeTable by decide,
   matches_F0FF (by rw [encode]; simp only [opField_encodeXKK, kkField_encodeXKK]; decide)⟩

theorem EncodeInRow.ldDTVx (x : RegNum) : EncodeInRow.Statement (.ldDTVx x) :=
  ⟨show (⟨0xF015, 0xF0FF⟩ : OpcodeRow) ∈ opcodeTable by decide,
   matches_F0FF (by rw [encode]; simp only [opField_encodeXKK, kkField_encodeXKK]; decide)⟩

theorem EncodeInRow.ldSTVx (x : RegNum) : EncodeInRow.Statement (.ldSTVx x) :=
  ⟨show (⟨0xF018, 0xF0FF⟩ : OpcodeRow) ∈ opcodeTable by decide,
   matches_F0FF (by rw [encode]; simp only [opField_encodeXKK, kkField_encodeXKK]; decide)⟩

theorem EncodeInRow.addIVx (x : RegNum) : EncodeInRow.Statement (.addIVx x) :=
  ⟨show (⟨0xF01E, 0xF0FF⟩ : OpcodeRow) ∈ opcodeTable by decide,
   matches_F0FF (by rw [encode]; simp only [opField_encodeXKK, kkField_encodeXKK]; decide)⟩

theorem EncodeInRow.ldFVx (x : RegNum) : EncodeInRow.Statement (.ldFVx x) :=
  ⟨show (⟨0xF029, 0xF0FF⟩ : OpcodeRow) ∈ opcodeTable by decide,
   matches_F0FF (by rw [encode]; simp only [opField_encodeXKK, kkField_encodeXKK]; decide)⟩

theorem EncodeInRow.ldBVx (x : RegNum) : EncodeInRow.Statement (.ldBVx x) :=
  ⟨show (⟨0xF033, 0xF0FF⟩ : OpcodeRow) ∈ opcodeTable by decide,
   matches_F0FF (by rw [encode]; simp only [opField_encodeXKK, kkField_encodeXKK]; decide)⟩

theorem EncodeInRow.ldMemVx (x : RegNum) : EncodeInRow.Statement (.ldMemVx x) :=
  ⟨show (⟨0xF055, 0xF0FF⟩ : OpcodeRow) ∈ opcodeTable by decide,
   matches_F0FF (by rw [encode]; simp only [opField_encodeXKK, kkField_encodeXKK]; decide)⟩

theorem EncodeInRow.ldVxMem (x : RegNum) : EncodeInRow.Statement (.ldVxMem x) :=
  ⟨show (⟨0xF065, 0xF0FF⟩ : OpcodeRow) ∈ opcodeTable by decide,
   matches_F0FF (by rw [encode]; simp only [opField_encodeXKK, kkField_encodeXKK]; decide)⟩

end Sys2Proof.Laws
end

