-- ==== Sys2Proof/Laws/Screen.lean ====
section
/-! SUPPORT. The laws of the screen: what a flip does to each cell, and what drawing a sprite does to the screen and to
the collision flag. -/

namespace Sys2Proof.Machine

@[simp] theorem cell_blank (k : Fin 2048) : Screen.blank.cell k = false := by
  simp [Screen.cell, Screen.blank]

/-- A flip inverts its cell and leaves the others. -/
theorem cell_flip (scr : Screen) (k j : Fin 2048) :
    (scr.flip k).cell j = (scr.cell j ^^ decide (j = k)) := by
  have hj := j.isLt
  have hk := k.isLt
  have hm : j.val % 64 < 64 := Nat.mod_lt _ (by decide)
  unfold Screen.cell Screen.flip
  by_cases hrow : k.val / 64 = j.val / 64
  · by_cases hcol : j.val % 64 = k.val % 64
    · have : j = k := Fin.ext (by omega)
      subst this
      simp [hm]
    · have hne : j ≠ k := fun h => hcol (by rw [h])
      have hcol' : k.val % 64 ≠ j.val % 64 := fun h => hcol h.symm
      simp [hrow, hne, BitVec.getLsbD_twoPow, hcol']
  · have hne : j ≠ k := fun h => hrow (by rw [h])
    simp [hrow, hne]

/-! ## The cells a sprite hits -/

/-- The cells the set bits of one sprite row fall on. -/
def rowHits (px py : Nat) (b : Byte) : List (Fin 2048) :=
  (spriteColumns.filter (spriteBit b)).map fun c => cellOf (px + c) py

/-- The cells the set bits of a sprite fall on. -/
def spriteHits (px py : Nat) : List Byte → List (Fin 2048)
  | [] => []
  | b :: bs => rowHits px py b ++ spriteHits px (py + 1) bs

theorem blitRow_eq (px py : Nat) (b : Byte) (acc : Screen × Bool) :
    blitRow px py b acc = (rowHits px py b).foldl blitPixel acc := by
  simp [blitRow, rowHits, List.foldl_map, List.foldl_filter]

theorem blitRows_eq (px py : Nat) (bs : List Byte) (acc : Screen × Bool) :
    blitRows px py bs acc = (spriteHits px py bs).foldl blitPixel acc := by
  induction bs generalizing py acc with
  | nil => rfl
  | cons b bs ih => simp [blitRows, spriteHits, ih, blitRow_eq]

theorem mem_spriteColumns (c : Nat) : c ∈ spriteColumns ↔ c < 8 := by
  simp [spriteColumns]; omega

theorem mem_rowHits (px py : Nat) (b : Byte) (k : Fin 2048) :
    k ∈ rowHits px py b ↔ ∃ c, c < 8 ∧ spriteBit b c = true ∧ k = cellOf (px + c) py := by
  simp only [rowHits, List.mem_map, List.mem_filter, mem_spriteColumns, and_assoc]
  exact exists_congr fun c => ⟨fun ⟨h1, h2, h3⟩ => ⟨h1, h2, h3.symm⟩, fun ⟨h1, h2, h3⟩ => ⟨h1, h2, h3.symm⟩⟩

theorem mem_spriteHits (px py : Nat) (bs : List Byte) (k : Fin 2048) :
    k ∈ spriteHits px py bs ↔
      ∃ r c b, bs[r]? = some b ∧ c < 8 ∧ spriteBit b c = true ∧ k = cellOf (px + c) (py + r) := by
  induction bs generalizing py with
  | nil => simp [spriteHits]
  | cons b bs ih =>
    simp only [spriteHits, List.mem_append, mem_rowHits, ih]
    constructor
    · rintro (⟨c, hc, hb, hk⟩ | ⟨r, c, b', hr, hc, hb, hk⟩)
      · exact ⟨0, c, b, rfl, hc, hb, hk⟩
      · exact ⟨r + 1, c, b', by simpa using hr, hc, hb, by rw [hk]; congr 1; omega⟩
    · rintro ⟨r, c, b', hr, hc, hb, hk⟩
      cases r with
      | zero => simp at hr; subst hr; exact .inl ⟨c, hc, hb, hk⟩
      | succ r => exact .inr ⟨r, c, b', by simpa using hr, hc, hb, by rw [hk]; congr 1; omega⟩

/-- Sprite pixels of different rows or columns fall on different cells: a sprite is 8 wide on a screen 64 wide and at
most 32 tall on a screen 32 tall (R142). -/
theorem cellOf_inj {px py c c' r r' : Nat} (hc : c < 8) (hc' : c' < 8) (hr : r < 32) (hr' : r' < 32)
    (h : cellOf (px + c) (py + r) = cellOf (px + c') (py + r')) : c = c' ∧ r = r' := by
  have h' : (py + r) % 32 * 64 + (px + c) % 64 = (py + r') % 32 * 64 + (px + c') % 64 := congrArg Fin.val h
  omega

theorem nodup_rowHits (px py : Nat) (b : Byte) : (rowHits px py b).Nodup := by
  have hn : (spriteColumns.filter (spriteBit b)).Nodup := List.Nodup.filter _ (by decide)
  refine List.Nodup.map_on ?_ hn
  intro c hc c' hc' h
  rw [List.mem_filter, mem_spriteColumns] at hc hc'
  exact (cellOf_inj (r := 0) (r' := 0) hc.1 hc'.1 (by decide) (by decide) h).1

theorem nodup_spriteHits (px py : Nat) (bs : List Byte) (h : bs.length ≤ 32) : (spriteHits px py bs).Nodup := by
  induction bs generalizing py with
  | nil => exact List.nodup_nil
  | cons b bs ih =>
    rw [List.length_cons] at h
    refine List.nodup_append.2 ⟨nodup_rowHits px py b, ih (py + 1) (by omega), ?_⟩
    intro k hk k' hk' he
    subst he
    obtain ⟨c, hc, -, h1⟩ := (mem_rowHits ..).1 hk
    obtain ⟨r, c', b', hr, hc', -, h2⟩ := (mem_spriteHits ..).1 hk'
    have hlt : r < bs.length := by
      by_contra hge
      simp [List.getElem?_eq_none (not_lt.1 hge)] at hr
    have h3 : cellOf (px + c) (py + 0) = cellOf (px + c') (py + (r + 1)) := by
      rw [Nat.add_zero, ← h1, h2]; congr 1; omega
    have := (cellOf_inj hc hc' (by decide) (by omega) h3).2
    omega

/-! ## Drawing -/

/-- Blitting different cells: each is inverted, the others stay, and the flag collects the cells that were set. -/
theorem foldl_blitPixel (ks : List (Fin 2048)) (h : ks.Nodup) (acc : Screen × Bool) (k : Fin 2048) :
    (ks.foldl blitPixel acc).1.cell k = (acc.1.cell k ^^ decide (k ∈ ks)) ∧
      (ks.foldl blitPixel acc).2 = (acc.2 || ks.any acc.1.cell) := by
  induction ks generalizing acc with
  | nil => simp
  | cons j ks ih =>
    obtain ⟨hj, hks⟩ := List.nodup_cons.1 h
    obtain ⟨h1, h2⟩ := ih hks (blitPixel acc j)
    have hany : ks.any (acc.1.flip j).cell = ks.any acc.1.cell := by
      rw [Bool.eq_iff_iff, List.any_eq_true, List.any_eq_true]
      refine exists_congr fun x => and_congr_right fun hx => ?_
      have hne : x ≠ j := fun he => hj (he ▸ hx)
      simp [cell_flip, hne]
    refine ⟨?_, ?_⟩
    · rw [List.foldl_cons, h1]
      by_cases hkj : k = j
      · subst hkj; simp [blitPixel, cell_flip, hj]
      · simp [blitPixel, cell_flip, hkj]
    · rw [List.foldl_cons, h2]
      simp [blitPixel, hany, Bool.or_assoc]

/-- Drawing a sprite of at most 32 rows inverts exactly the cells its set bits fall on. -/
theorem cell_blitRows (px py : Nat) (bs : List Byte) (h : bs.length ≤ 32) (acc : Screen × Bool) (k : Fin 2048) :
    (blitRows px py bs acc).1.cell k = (acc.1.cell k ^^ decide (k ∈ spriteHits px py bs)) := by
  rw [blitRows_eq]
  exact (foldl_blitPixel _ (nodup_spriteHits px py bs h) acc k).1

/-- The collision flag of a sprite of at most 32 rows: some cell it hits was set. -/
theorem collision_blitRows (px py : Nat) (bs : List Byte) (h : bs.length ≤ 32) (acc : Screen × Bool) :
    (blitRows px py bs acc).2 = (acc.2 || (spriteHits px py bs).any acc.1.cell) := by
  rw [blitRows_eq]
  exact (foldl_blitPixel _ (nodup_spriteHits px py bs h) acc 0).2

@[simp] theorem reg_drawSprite_flag (s : State) (px py : Byte) (rows : List Byte) :
    (s.drawSprite px py rows).reg flagReg =
      flagByte (blitRows px.toNat py.toNat rows (s.screen, false)).2 := by
  simp [State.reg]

theorem reg_drawSprite_other (s : State) (px py : Byte) (rows : List Byte) {k : RegNum} (h : k ≠ flagReg) :
    (s.drawSprite px py rows).reg k = s.reg k := by
  have : flagReg.val ≠ k.val := fun e => h (Fin.ext e.symm)
  simp [State.reg, this]

/-- Two screens with the same cells are the same screen. -/
theorem Screen.ext_cell {a b : Screen} (h : ∀ k : Fin 2048, a.cell k = b.cell k) : a = b := by
  apply Vector.ext
  intro r hr
  apply BitVec.eq_of_getLsbD_eq
  intro c hc
  have := h ⟨r * 64 + c, by omega⟩
  have h1 : (r * 64 + c) / 64 = r := by omega
  have h2 : (r * 64 + c) % 64 = c := by omega
  simpa [Screen.cell, h1, h2] using this

end Sys2Proof.Machine
end

