-- ==== Sys2Proof/Laws/Step.lean ====
section
/-! SUPPORT. What a Cycle, an event and a step can do, said once: the inversion lemmas every invariant goes through. -/

namespace Sys2Proof.Machine

/-- An answer of a machine that takes an event only with an empty latch. -/
theorem ifNoFault_next {s t : State} {k : Host.Outcome State Fault Refusal} (h : s.ifNoFault k = .next t) :
    s.fault = none ∧ k = .next t := by
  unfold State.ifNoFault at h
  split at h
  · exact ⟨‹_›, h⟩
  · cases h

theorem ifNoFault_of_none {s : State} (k : Host.Outcome State Fault Refusal) (h : s.fault = none) :
    s.ifNoFault k = k := by
  simp [State.ifNoFault, h]

theorem ifNoFault_of_some {s : State} {r : FaultRecord} (k : Host.Outcome State Fault Refusal)
    (h : s.fault = some r) : s.ifNoFault k = .fault (.stopped r) := by
  simp [State.ifNoFault, h]

/-- A Cycle that answers a next state was idle, failed to fetch, fetched an invalid word, or ran an instruction. -/
theorem cycle_cases {s t : State} {input : CycleInput} (h : s.cycle input = .next t) :
    (s.mode = .idle ∧ t = s) ∨
      (s.mode = .running ∧ 4094 < s.ip.toNat ∧ t = s.raise (.fetchOutOfRange s.ip)) ∨
      (s.mode = .running ∧ s.ip.toNat ≤ 4094 ∧
        (∀ i, decodeWord s.params.strictLowNibble s.fetchWord ≠ .ok i) ∧
        t = State.raise { s.fetched with inputs := input } (.invalidOpcode s.fetchWord)) ∨
      (s.mode = .running ∧ s.ip.toNat ≤ 4094 ∧
        ∃ i, decodeWord s.params.strictLowNibble s.fetchWord = .ok i ∧
          exec i { s.fetched with inputs := input } = .next t) := by
  unfold State.cycle at h
  split at h
  · cases h; exact .inl ⟨‹_›, rfl⟩
  · split at h
    · rename_i hr
      have hr : s.ip.toNat ≤ 4094 := by simpa [State.fetchInRange] using hr
      unfold State.decodeAndExecute at h
      split at h
      · rename_i i hd
        exact .inr (.inr (.inr ⟨‹_›, hr, i, hd, h⟩))
      · rename_i e hd
        refine .inr (.inr (.inl ⟨‹_›, hr, fun i hi => ?_, by cases h; rfl⟩))
        have hd' : decodeWord s.params.strictLowNibble s.fetchWord = .error e := hd
        rw [hd'] at hi; cases hi
    · rename_i hr
      have hr : 4094 < s.ip.toNat := by simpa [State.fetchInRange] using hr
      cases h
      exact .inr (.inl ⟨‹_›, hr, rfl⟩)

/-- An idle Cycle changes nothing (R81). -/
theorem cycle_idle {s : State} (input : CycleInput) (hm : s.mode = .idle) : s.cycle input = .next s := by
  simp [State.cycle, hm]

/-- A Cycle that cannot fetch raises FetchOutOfRange (R46). -/
theorem cycle_outOfRange {s : State} (input : CycleInput) (hm : s.mode = .running) (hi : 4094 < s.ip.toNat) :
    s.cycle input = .next (s.raise (.fetchOutOfRange s.ip)) := by
  have hr : s.fetchInRange = false := decide_eq_false (by omega)
  simp [State.cycle, hm, hr]

/-- A Cycle that fetches decodes and executes (R83 to R86). -/
theorem cycle_fetches {s : State} (input : CycleInput) (hm : s.mode = .running) (hi : s.ip.toNat ≤ 4094) :
    s.cycle input = State.decodeAndExecute { s.fetched with inputs := input } := by
  have hr : s.fetchInRange = true := decide_eq_true hi
  simp [State.cycle, hm, hr]

/-- A Cycle that fetches a valid word runs its instruction (R86). -/
theorem cycle_runs {s : State} {i : Instr} (input : CycleInput) (hm : s.mode = .running) (hi : s.ip.toNat ≤ 4094)
    (hd : decodeWord s.params.strictLowNibble s.fetchWord = .ok i) :
    s.cycle input = exec i { s.fetched with inputs := input } := by
  rw [cycle_fetches input hm hi]
  simp [State.decodeAndExecute, hd]

/-- A Cycle that fetches an invalid word raises InvalidOpcode (R66). -/
theorem cycle_invalid {s : State} {e : DecodeError} (input : CycleInput) (hm : s.mode = .running)
    (hi : s.ip.toNat ≤ 4094) (hd : decodeWord s.params.strictLowNibble s.fetchWord = .error e) :
    s.cycle input = .next (State.raise { s.fetched with inputs := input } (.invalidOpcode s.fetchWord)) := by
  rw [cycle_fetches input hm hi]
  simp [State.decodeAndExecute, hd]

/-- The only way a decode fails is an invalid word. -/
theorem decodeWord_error {strict : Bool} {w : Word} {e : DecodeError} (h : decodeWord strict w = .error e) :
    e = .invalidOpcode w := by
  unfold decodeWord decodeFormat0 decodeLowNibbleZero decodeFormat8 decodeFormatE decodeFormatF at h
  split at h <;> (try split at h) <;> (try split at h) <;> cases h <;> rfl

/-- An event that answers a next state is one of the six, served as its rule says. -/
theorem serve_cases {s t : State} {e : Event} (h : s.serve e = .next t) :
    (e = .reset ∧ t = s.clearOutputs.resetCells) ∨
      (∃ rom, e = .load rom ∧ t = s.clearOutputs.loadRom rom) ∨
      (∃ input, e = .cycle input ∧ s.fault = none ∧ s.clearOutputs.cycle input = .next t) ∨
      (e = .tick ∧ s.fault = none ∧ t = s.clearOutputs.tickTimers) ∨
      (e = .idle ∧ s.fault = none ∧ t = s.clearOutputs.enterIdle) ∨
      (e = .resume ∧ s.fault = none ∧ t = s.clearOutputs.leaveIdle) := by
  cases e with
  | reset => exact .inl ⟨rfl, (Host.Outcome.next.inj h).symm⟩
  | load rom => exact .inr (.inl ⟨rom, rfl, (Host.Outcome.next.inj h).symm⟩)
  | cycle input =>
    obtain ⟨h1, h2⟩ := ifNoFault_next h
    exact .inr (.inr (.inl ⟨input, rfl, h1, h2⟩))
  | tick =>
    obtain ⟨h1, h2⟩ := ifNoFault_next h
    cases h2
    exact .inr (.inr (.inr (.inl ⟨rfl, h1, rfl⟩)))
  | idle =>
    obtain ⟨h1, h2⟩ := ifNoFault_next h
    cases h2
    exact .inr (.inr (.inr (.inr (.inl ⟨rfl, h1, rfl⟩))))
  | resume =>
    obtain ⟨h1, h2⟩ := ifNoFault_next h
    cases h2
    exact .inr (.inr (.inr (.inr (.inr ⟨rfl, h1, rfl⟩))))

/-- With an event pending, a step serves it. -/
theorem step_pending {s : State} {e : Event} {rest : List Event} (h : s.pending = e :: rest) :
    step s = State.serve { s with pending := rest } e := by
  simp [step, State.nextEvent, State.popped, h]

/-- With none pending, a step is a Cycle with free inputs. -/
theorem step_unscheduled {s : State} (h : s.pending = []) :
    step s = State.serve { s with draws := s.draws + 1 } (.cycle (freeInput s.draws)) := by
  simp [step, State.nextEvent, State.popped, h]

/-- Taking an event off the queue changes the queue and the counter only. -/
theorem popped_eq (s : State) : s.popped = { s with pending := s.popped.pending, draws := s.popped.draws } := by
  unfold State.popped
  split <;> rfl

/-- A run's first step, over any machine behind the host's interface. -/
theorem run_of_step (M : Host.Core) (k : Nat) {s t : M.State} (h : M.step s = .next t) :
    M.run (k + 1) s = M.run k t := by
  rw [Host.Core.run, h]

/-- A run's first step. -/
theorem core_run_succ (k : Nat) {s t : State} (h : step s = .next t) : core.run (k + 1) s = core.run k t :=
  run_of_step core k h

/-- The decoder gives well-formed instructions. -/
theorem wellFormed_of_decode {strict : Bool} {w : Word} {i : Instr} (h : decodeWord strict w = .ok i) :
    i.wellFormed = true := by
  have hn := nField_le w
  unfold decodeWord decodeFormat0 decodeLowNibbleZero decodeFormat8 decodeFormatE decodeFormatF at h
  split at h <;> (try split at h) <;> (try split at h) <;> cases h <;> simp [Instr.wellFormed, hn]

/-! ## One edge of the signal-level binding (R186) -/

/-- Everything one strobe can do: the event it stands for, pulses kept, or nothing on a faulted machine. -/
theorem serveStrobe_cases {s t : State} {e : Event} (h : s.serveStrobe e = .next t) :
    (∃ u, s.serve e = .next u ∧ t = s.keepPulses u) ∨ ((∃ r, s.serve e = .fault r) ∧ t = s) := by
  unfold State.serveStrobe at h
  split at h
  · exact .inl ⟨_, ‹_›, (Host.Outcome.next.inj h).symm⟩
  · exact .inr ⟨⟨_, ‹_›⟩, (Host.Outcome.next.inj h).symm⟩
  · cases h

/-- A faulted machine holds all state at a strobe that is neither `rst` nor `load_req` (R82). -/
theorem serveStrobe_faulted {s : State} {r : FaultRecord} {e : Event} (h : s.fault = some r) (hr : e ≠ .reset)
    (hl : ∀ rom, e ≠ .load rom) : s.serveStrobe e = .next s := by
  have hs : s.serve e = .fault (.stopped r) := by
    cases e with
    | reset => exact absurd rfl hr
    | load rom => exact absurd rfl (hl rom)
    | cycle input => exact ifNoFault_of_some _ h
    | tick => exact ifNoFault_of_some _ h
    | idle => exact ifNoFault_of_some _ h
    | resume => exact ifNoFault_of_some _ h
  rw [State.serveStrobe, hs]

/-- An edge with no strobe high ends the pulses and does nothing else. -/
theorem onEdge_of_no_strobe {s : State} {w : Strobes} (h : w.events = []) : s.onEdge w = .next s.clearOutputs := by
  rw [State.onEdge, h]; rfl

/-- A load failure reported on an edge outlives every later strobe of that edge. -/
theorem serveStrobe_keeps_loadError {s t : State} {e : Event} (h : s.serveStrobe e = .next t)
    (hl : s.loadError = true) : t.loadError = true := by
  rcases serveStrobe_cases h with ⟨u, -, rfl⟩ | ⟨-, rfl⟩
  · simp [hl]
  · exact hl

end Sys2Proof.Machine
end

