-- ==== Sys2Proof/Tests/Slice0.lean ====
section
/-! SUPPORT. The model's own tests. Every expected value is the spec's: words from the encodings of 30_encoding.md R62
to R64, results from the vectors of 95_test_vectors.md (named in brackets). The witnesses at the end give, for every
statement with hypotheses, a concrete state and operands that meet them together. -/

namespace Sys2Proof.Tests

open Sys2Proof.Machine

/-! ## Helpers -/

/-- A Cycle input. -/
def keysDown (keys : BitVec 16) : CycleInput := ⟨keys, 0, 0⟩

/-- The start state of a vector: one Cycle with these inputs is pending. -/
def start (input : CycleInput) : State := { State.reset with pending := [.cycle input] }

/-- The start state with no key down and random byte 0. -/
def quiet : State := start (keysDown 0)

/-- The next state, if there is one. -/
def next? : Host.Outcome State Fault Refusal → Option State
  | .next t => some t
  | .fault _ => none
  | .refused _ => none

/-- One Cycle on the word `w` placed where the machine fetches. -/
def after (w : Nat) (s : State) : Option State := next? (step (s.withFetchWord 16 w))

/-- One step on an event. -/
def onEvent (e : Event) (s : State) : Option State := next? (step { s with pending := [e] })

/-- A state with a few bytes at an address. -/
def withBytes (s : State) (a : Nat) (bs : List Byte) : State := { s with memory := s.memory.writeBytes a bs }

/-- A state with some cells of the screen set. -/
def withPixels (s : State) (ks : List (Fin 2048)) : State := { s with screen := ks.foldl Screen.flip s.screen }

/-! ## Well-formedness: one ill-formed term for each check -/

theorem test_wellFormed_row_count : (Instr.drw 0 0 16).wellFormed = false ∧ (Instr.drw 0 0 15).wellFormed = true := by
  decide

theorem test_keepsFlagRule :
    (Instr.addReg 15 1).keepsFlagRule = false ∧ (Instr.subReg 15 1).keepsFlagRule = false ∧
      (Instr.shr 15 1).keepsFlagRule = false ∧ (Instr.subnReg 15 1).keepsFlagRule = false ∧
      (Instr.shl 15 1).keepsFlagRule = false ∧ (Instr.addReg 1 15).keepsFlagRule = true := by
  decide

/-! ## Decoding: every constructor from a word written out from R62 and R64 -/

theorem test_decode_control_flow :
    decodeTableWord 16 0x00EE = some .ret ∧ decodeTableWord 16 0x1234 = some (.jp 0x234) ∧
      decodeTableWord 16 0x2ABC = some (.call 0xABC) ∧ decodeTableWord 16 0x3A08 = some (.seImm 10 0x08) ∧
      decodeTableWord 16 0x4B7F = some (.sneImm 11 0x7F) ∧ decodeTableWord 16 0x5120 = some (.seReg 1 2) ∧
      decodeTableWord 16 0x9AB0 = some (.sneReg 10 11) ∧ decodeTableWord 16 0xBFFE = some (.jpV0 0xFFE) := by
  decide

theorem test_decode_load_alu :
    decodeTableWord 16 0x6A05 = some (.ldImm 10 0x05) ∧ decodeTableWord 16 0x7FE1 = some (.addImm 15 0xE1) ∧
      decodeTableWord 16 0x8120 = some (.ldReg 1 2) ∧ decodeTableWord 16 0x8341 = some (.orReg 3 4) ∧
      decodeTableWord 16 0x8562 = some (.andReg 5 6) ∧ decodeTableWord 16 0x8783 = some (.xorReg 7 8) ∧
      decodeTableWord 16 0x89A4 = some (.addReg 9 10) ∧ decodeTableWord 16 0x8BC5 = some (.subReg 11 12) ∧
      decodeTableWord 16 0x8DE6 = some (.shr 13 14) ∧ decodeTableWord 16 0x8F17 = some (.subnReg 15 1) ∧
      decodeTableWord 16 0x812E = some (.shl 1 2) ∧ decodeTableWord 16 0xC10F = some (.rnd 1 0x0F) := by
  decide

theorem test_decode_index_memory :
    decodeTableWord 16 0xA300 = some (.ldI 0x300) ∧ decodeTableWord 16 0xF21E = some (.addIVx 2) ∧
      decodeTableWord 16 0xF329 = some (.ldFVx 3) ∧ decodeTableWord 16 0xF333 = some (.ldBVx 3) ∧
      decodeTableWord 16 0xF355 = some (.ldMemVx 3) ∧ decodeTableWord 16 0xFF65 = some (.ldVxMem 15) := by
  decide

theorem test_decode_display_keypad_timers :
    decodeTableWord 16 0x00E0 = some .cls ∧ decodeTableWord 16 0xD12F = some (.drw 1 2 15) ∧
      decodeTableWord 16 0xE29E = some (.skp 2) ∧ decodeTableWord 16 0xE0A1 = some (.sknp 0) ∧
      decodeTableWord 16 0xF407 = some (.ldVxDT 4) ∧ decodeTableWord 16 0xF30A = some (.ldVxK 3) ∧
      decodeTableWord 16 0xF415 = some (.ldDTVx 4) ∧ decodeTableWord 16 0xF418 = some (.ldSTVx 4) := by
  decide

/-- Invalid words [I1 to I8]. -/
theorem test_decode_invalid_low :
    decodeTableWord 16 0x0000 = none ∧ decodeTableWord 16 0x00E1 = none ∧ decodeTableWord 16 0x00EF = none ∧
      decodeTableWord 16 0x00FE = none ∧ decodeTableWord 16 0x01E0 = none ∧ decodeTableWord 16 0x0FEE = none ∧
      decodeTableWord 16 0x0123 = none ∧ decodeTableWord 16 0x5121 = none ∧ decodeTableWord 16 0x512F = none ∧
      decodeTableWord 16 0x9121 = none := by
  decide

theorem test_decode_invalid_high :
    decodeTableWord 16 0x8128 = none ∧ decodeTableWord 16 0x812D = none ∧ decodeTableWord 16 0x812F = none ∧
      decodeTableWord 16 0xE19F = none ∧ decodeTableWord 16 0xE1A0 = none ∧ decodeTableWord 16 0xE100 = none ∧
      decodeTableWord 16 0xF1FF = none ∧ decodeTableWord 16 0xF100 = none ∧ decodeTableWord 16 0xF156 = none ∧
      decodeTableWord 16 0xF11F = none ∧ decodeTableWord 16 0xF130 = none ∧ decodeTableWord 16 0xFFFF = none := by
  decide

/-- Byte sequences: the rest is returned, a lone byte is truncated (R60). -/
theorem test_decode_bytes :
    decodeBytes true [0x6A, 0x05, 0x7A] = .ok (.ldImm 10 0x05, [0x7A]) ∧
      decodeBytes true [0x6A] = .error .truncated := by
  decide

/-! ## Control flow -/

theorem test_jp : (after 0x1234 quiet).map (·.ip) = some 0x234 := by decide -- [CF1]

theorem test_call :
    (after 0x2ABC { quiet with sp := 15 }).map (fun t => (t.ip, t.sp, t.stack[15])) = some (0xABC, 16, 0x202) := by
  decide -- [CF5]

theorem test_call_overflow :
    (after 0x2ABC { quiet with sp := 16 }).map (fun t => (t.fault, t.ip, t.sp)) =
      some (some .stackOverflow, 0x202, 16) := by
  decide -- [CF6]

theorem test_ret :
    (after 0x00EE { quiet with sp := 16, stack := quiet.stack.set 15 0xFFF }).map
      (fun t => (t.ip, t.sp, t.stack[15])) = some (0xFFF, 15, 0xFFF) := by
  decide -- [CF8]

theorem test_ret_underflow :
    (after 0x00EE quiet).map (fun t => (t.fault, t.ip)) = some (some .stackUnderflow, 0x202) := by
  decide -- [CF7]

theorem test_jpV0 : (after 0xBFFF (quiet.setReg 0 0xFF)).map (·.ip) = some 0x10FE := by decide -- [CF10]

theorem test_seImm :
    (after 0x3A08 (quiet.setReg 10 8)).map (·.ip) = some 0x204 ∧
      (after 0x3A08 (quiet.setReg 10 7)).map (·.ip) = some 0x202 := by
  decide -- [CF12, CF13]

theorem test_sneImm :
    (after 0x4A08 (quiet.setReg 10 7)).map (·.ip) = some 0x204 ∧ (after 0x4F00 quiet).map (·.ip) = some 0x202 := by
  decide -- [CF15, CF16]

theorem test_seReg :
    (after 0x5120 ((quiet.setReg 1 9).setReg 2 9)).map (·.ip) = some 0x204 ∧
      (after 0x5AB0 ((quiet.setReg 10 7).setReg 11 8)).map (·.ip) = some 0x202 := by
  decide -- [CF17, CF18]

theorem test_sneReg :
    (after 0x9120 ((quiet.setReg 1 9).setReg 2 8)).map (·.ip) = some 0x204 ∧
      (after 0x9AA0 (quiet.setReg 10 7)).map (·.ip) = some 0x202 := by
  decide -- [CF20, CF22]

/-! ## Load and ALU -/

theorem test_ldImm : (after 0x6FFF quiet).map (fun t => (t.reg 15, t.ip)) = some (0xFF, 0x202) := by decide -- [A2]

theorem test_addImm :
    (after 0x7A02 (quiet.setReg 10 0xFF)).map (fun t => (t.reg 10, t.reg 15)) = some (0x01, 0) := by
  decide -- [A3]

theorem test_ldReg : (after 0x8120 (quiet.setReg 2 0x3C)).map (·.reg 1) = some 0x3C := by decide -- [A6]

theorem test_orReg :
    (after 0x8121 ((quiet.setReg 1 0xF0).setReg 2 0x0F)).map (fun t => (t.reg 1, t.reg 15)) = some (0xFF, 0) := by
  decide -- [A7]

theorem test_andReg :
    (after 0x8122 ((quiet.setReg 1 0xF0).setReg 2 0x3C)).map (·.reg 1) = some 0x30 := by decide -- [A8]

theorem test_xorReg :
    (after 0x8123 ((quiet.setReg 1 0xF0).setReg 2 0x3C)).map (·.reg 1) = some 0xCC := by decide -- [A9]

theorem test_addReg :
    (after 0x8124 ((quiet.setReg 1 0xF0).setReg 2 0x20)).map (fun t => (t.reg 1, t.reg 15)) = some (0x10, 1) := by
  decide -- [A10]

theorem test_addReg_flag_operands :
    (after 0x8AF4 ((quiet.setReg 10 0x10).setReg 15 1)).map (fun t => (t.reg 10, t.reg 15)) = some (0x11, 0) ∧
      (after 0x8FA4 ((quiet.setReg 15 0xF0).setReg 10 0x20)).map (·.reg 15) = some 1 := by
  decide -- [A15, A16]

theorem test_subReg :
    (after 0x8125 ((quiet.setReg 1 3).setReg 2 5)).map (fun t => (t.reg 1, t.reg 15)) = some (0xFE, 0) := by
  decide -- [A18]

theorem test_subReg_equal :
    (after 0x8125 ((quiet.setReg 1 7).setReg 2 7)).map (fun t => (t.reg 1, t.reg 15)) = some (0, 1) := by
  decide -- [A19]

theorem test_shr :
    (after 0x8126 ((quiet.setReg 1 0xFF).setReg 2 0x55)).map (fun t => (t.reg 1, t.reg 2, t.reg 15)) =
      some (0x7F, 0x55, 1) := by
  decide -- [A26]

theorem test_shr_flag : (after 0x8F06 (quiet.setReg 15 0x07)).map (·.reg 15) = some 0x03 := by decide -- [A27]

theorem test_subnReg :
    (after 0x8127 ((quiet.setReg 1 5).setReg 2 3)).map (fun t => (t.reg 1, t.reg 15)) = some (0xFE, 0) := by
  decide -- [A29]

theorem test_shl :
    (after 0x810E (quiet.setReg 1 0x81)).map (fun t => (t.reg 1, t.reg 15)) = some (0x02, 1) := by
  decide -- [A32]

theorem test_shl_flag : (after 0x8FFE (quiet.setReg 15 0x41)).map (·.reg 15) = some 0x82 := by decide -- [A35]

theorem test_rnd : (after 0xC10F (start ⟨0, 0xB7, 0⟩)).map (·.reg 1) = some 0x07 := by decide -- [A36]

/-! ## Address register and memory -/

theorem test_ldI : (after 0xAFFF quiet).map (·.i) = some 0x0FFF := by decide -- [M2]

theorem test_addIVx :
    (after 0xF11E ((quiet.setI 0x0FFF).setReg 1 1)).map (·.i) = some 0x1000 ∧
      (after 0xF11E ((quiet.setI 0xFF80).setReg 1 0xFF)).map (·.i) = some 0x007F := by
  decide -- [M4, M6]

theorem test_ldFVx :
    (after 0xF329 (quiet.setReg 3 0x0A)).map (·.i) = some 0x0032 ∧
      (after 0xF129 (quiet.setReg 1 16)).map (fun t => (t.fault, t.i, t.ip)) =
        some (some (.glyphIndexOutOfRange 16), 0, 0x202) := by
  decide -- [M8, M10]

theorem test_ldBVx :
    (after 0xF133 ((quiet.setI 4093).setReg 1 255)).map (fun t => t.memory.readBytes 0xFFD 3) = some [2, 5, 5] := by
  decide -- [M13]

theorem test_ldBVx_outOfRange :
    (after 0xF133 ((quiet.setI 4094).setReg 1 255)).map (fun t => (t.fault, t.memory.readBytes 0xFFE 2)) =
      some (some (.dataOutOfRange 4094), [0, 0]) := by
  decide -- [M14]

theorem test_ldMemVx :
    (after 0xF255 ((((quiet.setI 0x400).setReg 0 1).setReg 1 2).setReg 2 3)).map
      (fun t => (t.memory.readBytes 0x400 4, t.i)) = some ([1, 2, 3, 0], 0x400) := by
  decide -- [M16]

theorem test_ldMemVx_own_word :
    (after 0xF155 (((quiet.setI 0x200).setReg 0 0x12).setReg 1 0x34)).map
      (fun t => (t.memory.readBytes 0x200 2, t.ip, t.opcode)) = some ([0x12, 0x34], 0x202, 0xF155) := by
  decide -- [M24]

theorem test_ldVxMem :
    (after 0xF265 (((withBytes quiet 0x400 [9, 8, 7]).setI 0x400).setReg 3 0x44)).map
      (fun t => (t.reg 0, t.reg 1, t.reg 2, t.reg 3)) = some (9, 8, 7, 0x44) := by
  decide -- [M21]

theorem test_ldVxMem_outOfRange :
    (after 0xF165 (quiet.setI 4095)).map (fun t => (t.fault, t.reg 0)) = some (some (.dataOutOfRange 4095), 0) := by
  decide -- [M23]

/-! ## Display -/

theorem test_cls :
    (after 0x00E0 ((withPixels quiet [0, 1, 2047]).setReg 15 1)).map
      (fun t => (t.screen == Screen.blank, t.reg 15, t.drawReq)) = some (true, 1, false) := by
  decide -- [S2]

theorem test_drw_wrap :
    (after 0xD011 (((withBytes (withPixels quiet [0, 1]) 0x300 [0xFF]).setI 0x300).setReg 0 60)).map
      (fun t => (t.screen == (withPixels quiet [60, 61, 62, 63, 2, 3]).screen, t.reg 15, t.drawReq)) =
      some (true, 1, true) := by
  decide -- [DR3]

theorem test_drw_nothing :
    (after 0xD000 ((quiet.setI 0xFFFF).setReg 15 1)).map (fun t => (t.fault, t.reg 15, t.drawReq)) =
      some (none, 0, true) := by
  decide -- [DR6]

/-! ## Keypad -/

theorem test_skp :
    (after 0xE29E ((start (keysDown 0x0400)).setReg 2 0x0A)).map (·.ip) = some 0x204 ∧
      (after 0xE29E (quiet.setReg 2 0x0A)).map (·.ip) = some 0x202 := by
  decide -- [K1]

theorem test_skp_outOfRange :
    (after 0xE09E ((start (keysDown 0xFFFF)).setReg 0 16)).map (fun t => (t.fault, t.ip)) =
      some (some (.keyIndexOutOfRange 16), 0x202) := by
  decide -- [K3]

theorem test_sknp :
    (after 0xE2A1 (quiet.setReg 2 0x0A)).map (·.ip) = some 0x204 ∧
      (after 0xE2A1 ((start (keysDown 0x0400)).setReg 2 0x0A)).map (·.ip) = some 0x202 := by
  decide -- [K4]

theorem test_ldVxK_waits :
    (after 0xF00A quiet).map (fun t => (t.ip, t.opcode, t.reg 0)) = some (0x200, 0xF00A, 0) := by
  decide -- [K7]

theorem test_ldVxK_takes :
    (after 0xF00A (start ⟨0x0110, 0, 0⟩)).map (fun t => (t.reg 0, t.ip)) = some (4, 0x202) ∧
      (after 0xF00A (start ⟨0x0110, 0, 1⟩)).map (fun t => (t.reg 0, t.ip)) = some (8, 0x202) := by
  decide -- [K9], both draws

/-! ## Timers and events -/

theorem test_ldVxDT : (after 0xF407 (quiet.setDelay 0x2A)).map (fun t => (t.reg 4, t.delay)) = some (0x2A, 0x2A) := by
  decide -- [T1]

theorem test_ldDTVx : (after 0xF415 (quiet.setReg 4 60)).map (·.delay) = some 60 := by decide -- [T3]

theorem test_ldSTVx : (after 0xF418 (quiet.setReg 4 5)).map (·.sound) = some 5 := by decide -- [T5]

theorem test_tick :
    (onEvent .tick ((quiet.setDelay 2).setSound 1)).map (fun t => (t.delay, t.sound, t.ip)) = some (1, 0, 0x200) ∧
      (onEvent .tick quiet).map (fun t => (t.delay, t.sound)) = some (0, 0) := by
  decide -- [T6, T7]

theorem test_idle_cycle :
    (onEvent (.cycle (keysDown 0)) (withBytes quiet 0x200 [0x6A, 0x05]).enterIdle).map
      (fun t => (t.ip, t.opcode, t.reg 10, t.mode)) = some (0x200, 0, 0, .idle) := by
  decide -- [E1]

theorem test_resume : (onEvent .resume quiet.enterIdle).map (·.mode) = some .running := by decide -- [E12]

theorem test_last_word :
    (after 0x6101 (quiet.setIp 0xFFE)).map (fun t => (t.reg 1, t.ip)) = some (1, 0x1000) := by
  decide -- [E2]

theorem test_fetch_outOfRange :
    (onEvent (.cycle (keysDown 0)) (quiet.setIp 0xFFF)).map (fun t => (t.fault, t.ip, t.opcode)) =
      some (some (.fetchOutOfRange 0x0FFF), 0xFFF, 0) := by
  decide -- [E3]

theorem test_odd_ip : (after 0x6101 (quiet.setIp 0x201)).map (fun t => (t.reg 1, t.ip)) = some (1, 0x203) := by
  decide -- [E4]

theorem test_reset_then_cycle :
    (onEvent .reset (withBytes (quiet.raise .stackOverflow) 0x200 [0x6A, 0x05])).map
      (fun t => (t.fault, t.memory, t.ip)) = some (none, [], 0x200) ∧
      (onEvent (.cycle (keysDown 0)) State.reset).map (fun t => (t.fault, t.ip)) =
        some (some (.invalidOpcode 0), 0x202) := by
  decide -- [E6, E7]

/-- A machine with a program gone wrong, idle. -/
def stale : State := ((quiet.setReg 3 9).raise .stackOverflow).enterIdle

theorem test_load :
    (onEvent (.load [0x12, 0x00]) stale).map (fun t => (t.reg 3, t.fault, t.mode, t.ip)) =
      some (0, none, .running, 0x200) := by
  decide -- [E11]

theorem test_load_memory :
    (loadedMemory Config.standard [0x12, 0x00]).readBytes 0x200 2 = [0x12, 0x00] ∧
      (loadedMemory Config.standard [0x12, 0x00]).readBytes 0x4B 6 = [0xF0, 0x80, 0xF0, 0x80, 0x80, 0] :=
  ⟨rfl, rfl⟩ -- [E11], R204

/-- The fault record as the ports show it (R171, R186). -/
theorem test_fault_ports :
    (quiet.raise (.keyIndexOutOfRange 0xFE)).faultCode = 6 ∧
      (quiet.raise (.keyIndexOutOfRange 0xFE)).faultInfo = some 0x00FE ∧
      quiet.faultValid = false ∧ (quiet.setSound 1).soundActive = true := by
  decide

/-- No strobe high. -/
def noStrobe : Strobes := ⟨false, none, false, false, false, false, keysDown 0⟩

/-- Simultaneous strobes are served in the order of R186. -/
theorem test_edge_order :
    (Strobes.mk true (some [0x12]) true true true true (keysDown 1)).events =
      [.reset, .load [0x12], .idle, .resume, .tick, .cycle (keysDown 1)] ∧
      (next? (quiet.onEdge { noStrobe with idleReq := true, resumeReq := true })).map (·.mode) = some .running := by
  decide

/-- `draw_req` is high for one clock: up after the edge that completes a `Dxyn`, down after the next. -/
theorem test_edge_draw_pulse :
    (next? ((quiet.withFetchWord 16 0xD000).onEdge { noStrobe with cycleReq := true })).map (·.drawReq) =
      some true ∧
      (next? (State.onEdge { quiet with drawReq := true } noStrobe)).map (·.drawReq) = some false := by
  decide

/-- `load_error` outlives a later strobe of the same edge. -/
theorem test_edge_load_error :
    (next? (State.serveStrobes { quiet with loadError := true } [.tick, .idle])).map (·.loadError) = some true := by
  decide

/-- A strobe to a faulted machine holds all state (R82). -/
theorem test_edge_faulted :
    (next? ((quiet.raise .stackOverflow).onEdge { noStrobe with tickReq := true, cycleReq := true })).map
      (fun t => (t.fault, t.ip, t.pending)) = some (some .stackOverflow, 0x200, [.cycle (keysDown 0)]) := by
  decide

/-! ## Witnesses: states and operands that meet each statement's hypotheses -/

/-- A state with `w` at `ip`, one Cycle pending. -/
def atWord (w : Nat) : State := quiet.withFetchWord 16 w

/-- The parameters with one policy changed. -/
def withParams (s : State) (f : Params → Params) : State := { s with params := f s.params }

theorem witness_DecodeOfEncode : (Instr.drw 15 14 15).wellFormed = true := by decide

theorem witness_EncodeOfDecode : decodeWord true 0x8126 = .ok (.shr 1 2) := by decide

theorem witness_DecoderFollowsOpcodeMap :
    (⟨0xF065, 0xF0FF⟩ : OpcodeRow) ∈ opcodeTable ∧ OpcodeRow.matches ⟨0xF065, 0xF0FF⟩ 0xFF65 = true ∧
      decodeWord true 0xFF65 = .ok (.ldVxMem 15) := by
  decide

theorem witness_ZeroFormatIsNeverAJump :
    opField 0x0123 = 0 ∧ (0x0123 : Word) ≠ 0x00E0 ∧ (0x0123 : Word) ≠ 0x00EE := by decide

theorem witness_LowNibblePolicyDecides : (15 : BitVec 4) ≠ 0 := by decide

theorem witness_StepRunsTheDecodedInstruction :
    let s := State.withFetchWord (quiet.setIp 4094) 16 0x6A05
    (s.fault = none ∧ s.mode = .running ∧ s.ip.toNat ≤ 4094 ∧
      decodeWord s.params.strictLowNibble (wordOfBytes (s.memory.read s.ip.toNat) (s.memory.read (s.ip.toNat + 1))) =
        .ok (.ldImm 10 0x05)) ∧
      s.pending = [.cycle (keysDown 0)] ∧ State.reset.pending = [] := by
  decide

theorem witness_InvalidWordFaultsAfterTheAdvance :
    quiet.fault = none ∧ quiet.mode = .running ∧ quiet.ip.toNat ≤ 4094 ∧
      quiet.pending = [.cycle (keysDown 0)] ∧ quiet.params.strictLowNibble = true ∧
      0x0000 = wordOfBytes (quiet.memory.read quiet.ip.toNat) (quiet.memory.read (quiet.ip.toNat + 1)) ∧
      ∀ r ∈ opcodeTable, r.matches 0x0000 = false := by
  decide

theorem witness_FetchOutOfRangeChangesNothing :
    let s := quiet.setIp 4095
    s.fault = none ∧ s.mode = .running ∧ 4094 < s.ip.toNat ∧ s.pending = [.cycle (keysDown 0)] := by decide

theorem witness_IdleCyclesChangeNothing :
    let s := quiet.enterIdle
    s.fault = none ∧ s.mode = .idle ∧ s.pending = [.cycle (keysDown 0)] ∧
      ∀ e ∈ s.pending, e = .tick ∨ ∃ input, e = .cycle input :=
  ⟨rfl, rfl, rfl, fun _ h => .inr ⟨keysDown 0, List.mem_singleton.1 h⟩⟩

theorem witness_TickDecrementsBothTimers :
    let s := { quiet with pending := [.tick] }
    s.fault = none ∧ s.pending = [.tick] := by decide

theorem witness_TimerReachesZeroAfterItsCount :
    let s := { quiet with pending := [.tick, .tick, .idle] }
    s.fault = none ∧ s.pending = List.replicate 2 .tick ++ [.idle] := by decide

theorem witness_IdleAndResumeWriteModeOnly :
    let s := { quiet with pending := [.idle] }
    let t := { quiet.enterIdle with pending := [.resume] }
    s.fault = none ∧ s.pending = .idle :: [] ∧ t.fault = none ∧ t.pending = .resume :: [] := by decide

theorem witness_FaultedMachineHasNoStep :
    let s := quiet.raise .stackOverflow
    s.fault = some .stackOverflow ∧ (∀ rom, s.nextEvent ≠ .load rom) ∧ s.nextEvent ≠ .reset :=
  ⟨rfl, nofun, nofun⟩

theorem witness_ResetReachesTheStatedValues :
    ({ quiet.raise .stackOverflow with pending := [.reset] } : State).pending = .reset :: [] := by decide

theorem witness_LoadPlacesGlyphsAndRom :
    ({ quiet with pending := [.load (List.replicate 3584 1)] } : State).pending =
      .load (List.replicate 3584 1) :: [] ∧ (List.replicate 3584 (1 : Byte)).length ≤ 3584 :=
  ⟨rfl, Nat.le_of_eq List.length_replicate⟩

theorem witness_OversizedRomLeavesEveryCell :
    ({ quiet with pending := [.load (List.replicate 3585 1)] } : State).pending =
      .load (List.replicate 3585 1) :: [] ∧ 4096 < (List.replicate 3585 (1 : Byte)).length + 0x200 := by
  refine ⟨rfl, ?_⟩
  rw [List.length_replicate]
  decide

theorem witness_OnlyHostEventsChangeMode :
    (next? (exec .cls quiet)).isSome = true ∧ (onEvent .idle quiet).map (·.mode) = some .idle ∧
      quiet.mode = .running := by decide

theorem witness_SelfJumpChangesOnlyOpcode :
    let s := atWord 0x1200
    s.fault = none ∧ s.mode = .running ∧ s.atSelfJump = true ∧ s.pending = [.cycle (keysDown 0)] := by decide

theorem witness_CallPushesAndReturnPops :
    ({ quiet with sp := 15 } : State).sp ≠ 16 ∧ ({ quiet with sp := 1 } : State).sp ≠ 0 := by decide

theorem witness_StackFaultsAtTheEnds :
    ({ quiet with sp := 16 } : State).sp = 16 ∧ quiet.sp = 0 := by decide

theorem witness_CallThenReturnRestoresIp :
    let s := { quiet with sp := 15 }
    let t := { s with sp := 16, stack := s.stack.set 15 s.ip, ip := 0xABC }
    s.sp ≠ 16 ∧ exec (.call 0xABC) s = .next t ∧ (t.setReg 3 1).stack = t.stack ∧ (t.setReg 3 1).sp = t.sp :=
  ⟨by decide, rfl, rfl, rfl⟩

theorem witness_AddSetsCarry : (14 : RegNum) ≠ flagReg := by decide

theorem witness_SubtractionsSetNoBorrow : (0 : RegNum) ≠ flagReg := by decide

theorem witness_ShiftsReportTheLostBit : (1 : RegNum) ≠ flagReg := by decide

theorem witness_FlagRegisterAsDestination :
    quiet.params.vfAlias = .listedOrder ∧
      (withParams quiet fun p => { p with vfAlias := .refuse }).params.vfAlias = .refuse := by decide

theorem witness_GlyphAddressIsFiveTimesTheDigit :
    ((quiet.setReg 1 15).reg 1).toNat ≤ 15 ∧ 15 < ((quiet.setReg 1 16).reg 1).toNat ∧
      quiet.params.glyphId = .fault ∧
      (withParams quiet fun p => { p with glyphId := .mask4 }).params.glyphId = .mask4 ∧
      (withParams quiet fun p => { p with glyphId := .times5 }).params.glyphId = .times5 := by decide

theorem witness_DecimalDigitsAreStored :
    (quiet.setI 4093).memory.wf = true ∧ (quiet.setI 4093).i.toNat + 2 ≤ 4095 := by decide

/-- All sixteen registers, up to the top of memory. -/
theorem witness_RegistersAreStored :
    (quiet.setI 4080).memory.wf = true ∧ (quiet.setI 4080).i.toNat + (15 : RegNum).val ≤ 4095 := by decide

theorem witness_RegistersAreLoaded : (quiet.setI 4095).i.toNat + (0 : RegNum).val ≤ 4095 := by decide

theorem witness_DataOutOfRangeChangesNothing :
    4095 < (quiet.setI 4094).i.toNat + 2 ∧ 4095 < (quiet.setI 4081).i.toNat + (15 : RegNum).val ∧
      0 < 1 ∧ 4095 < (quiet.setI 4096).i.toNat + 1 - 1 := by decide

theorem witness_StoreThenLoadRestoresRegisters :
    let s := (quiet.setReg 0 7).setI 4095
    let t := s.storeAtI (s.regsUpTo 0)
    s.memory.wf = true ∧ s.i.toNat + (0 : RegNum).val ≤ 4095 ∧ exec (.ldMemVx 0) s = .next t ∧
      (t.setReg 0 0).memory = t.memory ∧ (t.setReg 0 0).i = t.i :=
  ⟨rfl, by decide, rfl, rfl, rfl⟩

/-- Both clauses at the top of memory. -/
theorem witness_NextFetchSeesTheStore :
    quiet.memory.wf = true ∧ (quiet.setI 4080).i.toNat + (15 : RegNum).val ≤ 4095 ∧
      (quiet.setI 4093).i.toNat + 2 ≤ 4095 := by decide

/-- A stored byte over one of the two bytes at `ip` is fetched, by `Fx55` and by `Fx33` (R54). -/
theorem test_fetch_sees_one_byte :
    (next? (exec (.ldMemVx 0) ((quiet.setI 0x201).setReg 0 0x05))).map (·.fetchWord) = some 0x0005 ∧
      (next? (exec (.ldBVx 0) ((quiet.setI 0x1FE).setReg 0 0x05))).map (·.fetchWord) = some 0x0500 := by
  decide

/-- Range clauses at their ends, a covered set cell (collision), and a covered clear one. -/
theorem witness_DrawInvertsTheCoveredCells :
    let s := (withBytes quiet 0x300 [0x80]).setI 0x300
    (15 ≤ 15 ∧ (quiet.setI 4081).i.toNat + 15 - 1 ≤ 4095) ∧ SpriteCovers s 0 0 1 0 ∧
      (withPixels s [0]).pixel 0 = true ∧ s.pixel 0 = false :=
  ⟨by decide, ⟨0, 0, by decide, by decide, by decide, by decide⟩, by decide, by decide⟩

theorem witness_DrawingTwiceRestoresTheScreen :
    let s := (withBytes quiet 0x300 [0x80]).setI 0x300
    1 ≤ 15 ∧ s.i.toNat + 1 - 1 ≤ 4095 ∧ (0 : RegNum) ≠ flagReg ∧
      exec (.drw 0 0 1) s = .next (s.drawSprite (s.reg 0) (s.reg 0) (s.loadAtI 1)) ∧ SpriteCovers s 0 0 1 0 :=
  ⟨by decide, by decide, by decide, rfl, ⟨0, 0, by decide, by decide, by decide, by decide⟩⟩

theorem witness_RedrawExactlyAfterACompletedDraw :
    (next? (step (atWord 0xD011))).isSome = true ∧
      (atWord 0xD011).nextEvent = .cycle (keysDown 0) ∧ (atWord 0xD011).mode = .running ∧
      decodeWord true (atWord 0xD011).fetchWord = .ok (.drw 0 1 1) := by decide

theorem witness_KeySkipsFollowTheKeyState : ((quiet.setReg 0 15).reg 0).toNat ≤ 15 := by decide

theorem witness_KeyNumberPolicyDecides :
    15 < ((quiet.setReg 0 16).reg 0).toNat ∧ quiet.params.keyId = .fault ∧
      (withParams quiet fun p => { p with keyId := .mask4 }).params.keyId = .mask4 ∧
      (withParams quiet fun p => { p with keyId := .notPressed }).params.keyId = .notPressed := by decide

theorem witness_WaitEndsWithAPressedKey :
    let s : State := { quiet with inputs := keysDown 0x0110 }
    s.inputs.keys ≠ 0 ∧ s.params.keyPick = .any ∧ s.inputs.keys.getLsbD (8 : Fin 16).val = true ∧
      (withParams s fun p => { p with keyPick := .lowest }).params.keyPick = .lowest := by decide

theorem witness_WaitingCycleRepeats :
    let s := atWord 0xFF0A
    s.fault = none ∧ s.mode = .running ∧ s.ip.toNat ≤ 4094 ∧ s.pending = [.cycle (keysDown 0)] ∧
      s.fetchWord = encode (.ldVxK 15) ∧ (keysDown 0).keys = 0 := by decide

theorem witness_EveryInstructionRuns :
    quiet.params.vfAlias = .listedOrder ∧ (Instr.addReg 14 15).keepsFlagRule = true := by decide

theorem witness_RegistersChangeOnlyAsListed :
    (next? (exec (.ldImm 3 9) quiet)).map (·.reg 3) = some 9 ∧ quiet.reg 3 = 0 := by decide

/-- Each cell of the statement changed by an instruction it names. -/
theorem witness_CellsChangeOnlyAsListed :
    (next? (exec (.jp 1) quiet)).map (·.ip) = some 1 ∧
    (next? (exec (.ldI 1) quiet)).map (·.i) = some 1 ∧
      (next? (exec (.call 1) quiet)).map (fun t => (t.stack[0], t.sp)) = some (0x200, 1) ∧
      (next? (exec (.ldDTVx 1) (quiet.setReg 1 5))).map (·.delay) = some 5 ∧
      (next? (exec (.ldSTVx 1) (quiet.setReg 1 5))).map (·.sound) = some 5 ∧
      (next? (exec (.ldBVx 1) (quiet.setReg 1 5))).map (·.memory) = some [(2, 5)] ∧
      (next? (exec .cls (withPixels quiet [0]))).map (·.pixel 0) = some false ∧
      (next? (exec (.drw 0 0 0) quiet)).map (·.drawReq) = some true := by decide

theorem witness_FaultsRaisedOnlyAsListed :
    quiet.fault = none ∧ (next? (exec .ret quiet)).map (·.fault) = some (some .stackUnderflow) := by decide

theorem witness_FaultingInstructionChangesOnlyTheLatch :
    quiet.fault = none ∧ (next? (exec (.ldVxMem 1) (quiet.setI 4095))).map (·.fault) =
      some (some (.dataOutOfRange 4095)) := by decide

theorem witness_InputsReachOnlyTheirInstructions :
    (∀ x kk, Instr.cls ≠ .rnd x kk) ∧ (∀ x, Instr.cls ≠ .skp x) ∧ (∀ x, Instr.cls ≠ .sknp x) ∧
      ∀ x, Instr.cls ≠ .ldVxK x :=
  ⟨nofun, nofun, nofun, nofun⟩

theorem witness_StepKeepsTheInvariant :
    (atWord 0x6A05).Inv ∧ (next? (step (atWord 0x6A05))).isSome = true :=
  ⟨⟨by decide, by decide, by decide, fun _ h => nomatch h⟩, by decide⟩

end Sys2Proof.Tests
end

/-! SUPPORT. What an instruction can do to the state, said once: the kinds of effect of the execute phase
(40_engine_cycle.md R86), each with what the frames and the invariant ask of it. -/

namespace Sys2Proof.Machine

/-! ## The instructions that write a cell (10_state.md section 1, column "Written by") -/

/-- The instruction may write `ip` in its execute phase (R16). -/
def MayWriteIp (i : Instr) : Prop :=
  i = .ret ∨ (∃ nnn, i = .jp nnn) ∨ (∃ nnn, i = .call nnn) ∨ (∃ nnn, i = .jpV0 nnn) ∨
    (∃ x kk, i = .seImm x kk) ∨ (∃ x kk, i = .sneImm x kk) ∨ (∃ x y, i = .seReg x y) ∨
    (∃ x y, i = .sneReg x y) ∨ (∃ x, i = .skp x) ∨ (∃ x, i = .sknp x) ∨ ∃ x, i = .ldVxK x

/-- The instruction may write `I` (R18). -/
def MayWriteI (i : Instr) : Prop := (∃ nnn, i = .ldI nnn) ∨ (∃ x, i = .addIVx x) ∨ ∃ x, i = .ldFVx x

/-- The instruction may write `memory` (R22). -/
def MayWriteMemory (i : Instr) : Prop := (∃ x, i = .ldBVx x) ∨ ∃ x, i = .ldMemVx x

/-! ## The kinds of effect -/

/-- An `ip` an instruction may leave (R17): at most 0x10FE, whenever the instruction was fetched from memory. -/
def IpReachable (s : State) (w : Word) : Prop := 2 ≤ s.ip.toNat → s.ip.toNat ≤ 4096 → w.toNat ≤ 0x10FE

/-- The states an instruction can leave: each kind of effect writes the cells it names and no other. -/
inductive ExecEffect (s : State) : Instr → State → Prop
  | raises {i : Instr} {r : FaultRecord} (listed : mayRaise i r = true)
      (legal : i.wellFormed = true → r.legal s.params) : ExecEffect s i (s.raise r)
  | registers {i : Instr} {v : Vector Byte 16}
      (listed : ∀ k, State.reg { s with v := v } k ≠ s.reg k → mayWriteReg i k = true) :
      ExecEffect s i { s with v := v }
  | movesIp {i : Instr} {w : Word} (listed : MayWriteIp i) (reachable : IpReachable s w) :
      ExecEffect s i (s.setIp w)
  | pushes (nnn : Addr12) (h : s.sp.val < 16) : ExecEffect s (.call nnn)
      { s with stack := s.stack.set s.sp.val s.ip, sp := ⟨s.sp.val + 1, by omega⟩, ip := zextAddr nnn }
  | pops (h : 0 < s.sp.val) :
      ExecEffect s .ret { s with ip := s.stack[s.sp.val - 1], sp := ⟨s.sp.val - 1, by omega⟩ }
  | setsI {i : Instr} (w : Word) (listed : MayWriteI i) : ExecEffect s i (s.setI w)
  | setsDelay (x : RegNum) : ExecEffect s (.ldDTVx x) (s.setDelay (s.reg x))
  | setsSound (x : RegNum) : ExecEffect s (.ldSTVx x) (s.setSound (s.reg x))
  | stores {i : Instr} {bs : List Byte} (listed : MayWriteMemory i) (inMemory : s.i.toNat + bs.length ≤ 4096) :
      ExecEffect s i (s.storeAtI bs)
  | clears : ExecEffect s .cls { s with screen := Screen.blank }
  | draws (x y : RegNum) (n : Nat) : ExecEffect s (.drw x y n) (s.drawSprite (s.reg x) (s.reg y) (s.loadAtI n))

/-! ## One lemma per shared operation -/

theorem zextAddr_toNat_lt (nnn : Addr12) : (zextAddr nnn).toNat < 4096 := by
  have := nnn.isLt
  simp only [zextAddr, BitVec.toNat_setWidth]
  omega

theorem ipReachable_zextAddr (s : State) (nnn : Addr12) : IpReachable s (zextAddr nnn) := fun _ _ => by
  have := zextAddr_toNat_lt nnn
  omega

/-- The largest target of `Bnnn` is 0xFF + 0xFFF = 0x10FE (R17). -/
theorem ipReachable_zextByte_add_zextAddr (s : State) (b : Byte) (nnn : Addr12) :
    IpReachable s (zextByte b + zextAddr nnn) := fun _ _ => by
  have hb := b.isLt
  have hn := zextAddr_toNat_lt nnn
  simp only [zextByte, BitVec.toNat_add, BitVec.toNat_setWidth]
  omega

/-- The advance of `ip` does not wrap at an address in memory (R84). -/
theorem toNat_add_two {w : Word} (h : w.toNat ≤ 4096) : (w + 2).toNat = w.toNat + 2 := by
  bv_omega

theorem ipReachable_skip (s : State) (c : Bool) : IpReachable s (if c then s.ip + 2 else s.ip) := fun _ h => by
  cases c
  · exact h.trans (by decide)
  · exact (toNat_add_two h).trans_le (by omega)

/-- The wait of `Fx0A` takes back the advance its own fetch made. -/
theorem ipReachable_sub_two (s : State) : IpReachable s (s.ip - 2) := fun h h' => by
  bv_omega

theorem effect_setReg {s : State} {i : Instr} {x : RegNum} {b : Byte} (hx : mayWriteReg i x = true) :
    ExecEffect s i (s.setReg x b) :=
  .registers fun k hk => by
    by_cases h : k = x
    · exact h ▸ hx
    · exact absurd (reg_setReg_other s b h) hk

/-- Two register writes, as the flag writers make them. -/
theorem effect_setReg_setReg {s : State} {i : Instr} {x y : RegNum} {b c : Byte} (hx : mayWriteReg i x = true)
    (hy : mayWriteReg i y = true) : ExecEffect s i ((s.setReg x b).setReg y c) :=
  .registers fun k hk => by
    by_cases h : k = y
    · exact h ▸ hy
    · by_cases h' : k = x
      · exact h' ▸ hx
      · exact absurd ((reg_setReg_other _ c h).trans (reg_setReg_other s b h')) hk

/-- A load writes as many registers as it read bytes. -/
theorem effect_setRegs {s : State} {x : RegNum} {bs : List Byte} (hb : bs.length = x.val + 1) :
    ExecEffect s (.ldVxMem x) (s.setRegs bs) :=
  .registers fun k hk => by
    by_contra hkx
    have hlt : bs.length ≤ k.val := by
      have : ¬ k.val ≤ x.val := by simpa [mayWriteReg] using hkx
      omega
    exact hk ((reg_setRegs s bs k).trans (by simp [List.getElem?_eq_none hlt]))

/-- A skip of either outcome moves `ip` at most. -/
theorem effect_skipIf {s : State} {i : Instr} (c : Bool) (hi : MayWriteIp i) : ExecEffect s i (s.skipIf c) :=
  .movesIp hi (ipReachable_skip s c)

theorem effect_skipOnKey {s : State} {i : Instr} (x : RegNum) (wanted : Bool) (hi : MayWriteIp i)
    (hr : mayRaise i (.keyIndexOutOfRange (s.reg x)) = true) : ExecEffect s i (s.skipOnKey x wanted) := by
  rcases skipOnKey_cases s x wanted with ⟨p, -, e⟩ | ⟨hx, hp, e⟩ <;> rw [e]
  · exact effect_skipIf _ hi
  · exact .raises hr fun _ => ⟨hx, hp⟩

/-- A data instruction of at most 16 bytes has its body's effect, or faults. -/
theorem effect_withData {s body : State} {i : Instr} {count : Nat} (hc : i.wellFormed = true → count ≤ 16)
    (hr : mayRaise i (.dataOutOfRange s.i) = true)
    (hbody : count = 0 ∨ s.i.toNat + count ≤ 4096 → ExecEffect s i body) :
    ExecEffect s i (s.withData count body) := by
  rcases withData_cases s count body with ⟨h, e⟩ | ⟨-, h, e⟩ <;> rw [e]
  · exact hbody h
  · exact .raises hr fun hw => show 4096 < s.i.toNat + 16 by have := hc hw; omega

theorem effect_callTo (s : State) (nnn : Addr12) : ExecEffect s (.call nnn) (s.callTo (zextAddr nnn)) := by
  rcases callTo_cases s (zextAddr nnn) with ⟨h, e⟩ | ⟨-, e⟩ <;> rw [e]
  · exact .pushes nnn h
  · exact .raises rfl fun _ => trivial

theorem effect_returnFromCall (s : State) : ExecEffect s .ret s.returnFromCall := by
  rcases returnFromCall_cases s with ⟨h, e⟩ | ⟨-, e⟩ <;> rw [e]
  · exact .pops h
  · exact .raises rfl fun _ => trivial

theorem effect_pointAtGlyph (s : State) (x : RegNum) : ExecEffect s (.ldFVx x) (s.pointAtGlyph x) := by
  rcases pointAtGlyph_cases s x with ⟨a, -, e⟩ | ⟨hx, hp, e⟩ <;> rw [e]
  · exact .setsI a (by simp [MayWriteI])
  · exact .raises rfl fun _ => ⟨hx, hp⟩

theorem effect_takeKey (s : State) (x : RegNum) : ExecEffect s (.ldVxK x) (s.takeKey x) := by
  rcases takeKey_cases s x with ⟨-, e⟩ | ⟨k, -, -, e⟩ <;> rw [e]
  · exact .movesIp (by simp [MayWriteIp]) (ipReachable_sub_two s)
  · exact effect_setReg (by simp [mayWriteReg])

/-! ## Every instruction -/

/-- An instruction that answers a next state has one of the effects above. -/
theorem exec_effect {i : Instr} {s t : State} (h : exec i s = .next t) : ExecEffect s i t := by
  cases i with
  | cls => cases h; exact .clears
  | ret => cases h; exact effect_returnFromCall s
  | call nnn => cases h; exact effect_callTo s nnn
  | jp nnn => cases h; exact .movesIp (by simp [MayWriteIp]) (ipReachable_zextAddr s nnn)
  | jpV0 nnn => cases h; exact .movesIp (by simp [MayWriteIp]) (ipReachable_zextByte_add_zextAddr s _ nnn)
  | seImm | sneImm | seReg | sneReg => cases h; exact effect_skipIf _ (by simp [MayWriteIp])
  | skp x => cases h; exact effect_skipOnKey x true (by simp [MayWriteIp]) rfl
  | sknp x => cases h; exact effect_skipOnKey x false (by simp [MayWriteIp]) rfl
  | ldImm | addImm | ldReg | orReg | andReg | xorReg | rnd | ldVxDT =>
    cases h
    exact effect_setReg (by simp [mayWriteReg])
  | addReg | subReg | shr | subnReg | shl =>
    cases flagWriter_inv h
    exact effect_setReg_setReg (by simp [mayWriteReg]) (by simp [mayWriteReg])
  | ldVxK x => cases h; exact effect_takeKey s x
  | ldDTVx x => cases h; exact .setsDelay x
  | ldSTVx x => cases h; exact .setsSound x
  | ldI | addIVx => cases h; exact .setsI _ (by simp [MayWriteI])
  | ldFVx x => cases h; exact effect_pointAtGlyph s x
  | drw x y n =>
    cases h
    refine effect_withData (fun hw => ?_) rfl fun _ => .draws x y n
    have : n ≤ 15 := of_decide_eq_true hw
    omega
  | ldBVx x =>
    cases h
    refine effect_withData (fun _ => by decide) rfl fun hr => .stores (by simp [MayWriteMemory]) ?_
    simpa using hr
  | ldMemVx x =>
    cases h
    refine effect_withData (fun _ => x.isLt) rfl fun hr => .stores (by simp [MayWriteMemory]) ?_
    simpa using hr
  | ldVxMem x =>
    cases h
    exact effect_withData (fun _ => x.isLt) rfl fun _ => effect_setRegs (length_loadAtI s _)

end Sys2Proof.Machine

/-! SUPPORT. The frames of the execute phase (10_state.md), read off the kinds of effect. -/

namespace Sys2Proof.Machine

/-- Settles O54: of the kinds of effect, only a register write and a drawing change a register. -/
theorem registersChangeOnlyAsListed : Obligations.RegistersChangeOnlyAsListed := by
  intro i s t k h hk
  cases exec_effect h with
  | registers listed => exact listed k hk
  | draws x y n =>
    by_contra hf
    exact hk (reg_drawSprite_other s _ _ _ (by simpa [mayWriteReg] using hf))
  | raises | movesIp | pushes | pops | setsI | setsDelay | setsSound | stores | clears => exact absurd rfl hk

/-- Settles O55: each kind of effect writes the cells it names and keeps the others. -/
theorem cellsChangeOnlyAsListed : Obligations.CellsChangeOnlyAsListed := by
  intro i s t h
  cases exec_effect h with
  | movesIp listed => exact ⟨fun _ => listed, by simp⟩
  | setsI w listed => exact ⟨by simp, fun _ => listed, by simp⟩
  | stores listed => exact ⟨by simp, by simp, by simp, by simp, by simp, by simp, fun _ => listed, by simp⟩
  | raises | registers | pushes | pops | setsDelay | setsSound | clears | draws => simp

end Sys2Proof.Machine

/-! SUPPORT. The register file and its one flag (10_state.md R12 to R14). -/

namespace Sys2Proof.Machine

/-- A register write changes its register and nothing else. -/
theorem writesRegister_setReg (s : State) (x : RegNum) (b : Byte) : WritesRegister s (s.setReg x b) x b :=
  ⟨reg_setReg_same s x b, fun _ hk => reg_setReg_other s b hk, rfl, fun _ => rfl⟩

/-- Of two writes to one register the later stands (R14). -/
@[simp] theorem setReg_setReg_same (s : State) (x : RegNum) (b c : Byte) :
    (s.setReg x b).setReg x c = s.setReg x c := by
  simp [State.setReg]

/-- The flag written after `VF` itself stands: the order `8Fy4 8Fy5 8Fy7` list. -/
theorem setFlag_setReg_flagReg (s : State) (b : Byte) (c : Bool) :
    (s.setReg flagReg b).setFlag c = s.setReg flagReg (flagByte c) :=
  setReg_setReg_same s flagReg b (flagByte c)

/-- `VF` written after the flag stands: the order `8Fy6 8FyE` list. -/
theorem setReg_flagReg_setFlag (s : State) (b : Byte) (c : Bool) :
    (s.setFlag c).setReg flagReg b = s.setReg flagReg b :=
  setReg_setReg_same s flagReg (flagByte c) b

theorem flagByte_decide (p : Prop) [Decidable p] : flagByte (decide p) = if p then 1 else 0 := by
  simp [flagByte]

theorem shiftRight_one_eq_half (b : Byte) : b >>> 1 = BitVec.ofNat 8 (b.toNat / 2) := by
  apply BitVec.eq_of_toNat_eq
  have := b.isLt
  simp only [BitVec.toNat_ushiftRight, BitVec.toNat_ofNat]
  omega

theorem shiftLeft_one_eq_double (b : Byte) : b <<< 1 = BitVec.ofNat 8 (2 * b.toNat % 256) := by
  apply BitVec.eq_of_toNat_eq
  simp only [BitVec.toNat_shiftLeft, BitVec.toNat_ofNat]
  omega

/-- Under listed_order a value and then a flag written to `VF` leave the flag. -/
theorem flagWriter_valueThenFlag {s : State} {b : Byte} {p : Prop} [Decidable p]
    (h : s.params.vfAlias = .listedOrder) :
    ∃ t, s.flagWriter flagReg ((s.setReg flagReg b).setFlag (decide p)) = .next t ∧
      WritesRegister s t flagReg (if p then 1 else 0) := by
  refine ⟨_, flagWriter_next _ (.inl h), ?_⟩
  rw [setFlag_setReg_flagReg, flagByte_decide]
  exact writesRegister_setReg ..

/-- Under listed_order a flag and then a value written to `VF` leave the value. -/
theorem flagWriter_flagThenValue {s : State} {b : Byte} {c : Bool} (h : s.params.vfAlias = .listedOrder) :
    ∃ t, s.flagWriter flagReg ((s.setFlag c).setReg flagReg b) = .next t ∧ WritesRegister s t flagReg b := by
  refine ⟨_, flagWriter_next _ (.inl h), ?_⟩
  rw [setReg_flagReg_setFlag]
  exact writesRegister_setReg ..

/-- Under refuse a flag writer with `VF` as destination has no meaning. -/
theorem flagWriter_flagReg_refused {s : State} (body : State) (h : s.params.vfAlias = .refuse) :
    s.flagWriter flagReg body = .refused .flagRegisterAsDestination := by
  simp [State.flagWriter, h]

/-- Settles O32: of the two writes to `VF` the later one stands, and refuse takes the meaning away. -/
theorem flagRegisterAsDestination : Obligations.FlagRegisterAsDestination := by
  intro s y
  refine ⟨fun hp => ⟨flagWriter_valueThenFlag hp, flagWriter_valueThenFlag hp, flagWriter_valueThenFlag hp,
    ?shr, ?shl⟩, fun hp i hi => ?refuse⟩
  case shr => rw [← shiftRight_one_eq_half]; exact flagWriter_flagThenValue hp
  case shl => rw [← shiftLeft_one_eq_double]; exact flagWriter_flagThenValue hp
  case refuse =>
    simp only [List.mem_cons, List.not_mem_nil, or_false] at hi
    rcases hi with rfl | rfl | rfl | rfl | rfl <;> exact flagWriter_flagReg_refused _ hp

end Sys2Proof.Machine

/-! SUPPORT. Reset and the invariant of every event (10_state.md R17, R28, R29). -/

namespace Sys2Proof.Machine

/-! ## Reset -/

theorem cellsAtReset_resetCells (s : State) : CellsAtReset s.resetCells := by
  refine ⟨fun k => by simp [State.reg], fun k => by simp, cell_blank, fun _ => rfl, ?_⟩
  simp

/-- Settles O15: the cells a Reset event writes do not depend on the state it finds. -/
theorem resetReachesTheStatedValues : Obligations.ResetReachesTheStatedValues := by
  refine ⟨⟨cellsAtReset_resetCells State.reset, rfl, rfl⟩, fun s rest hp => ?_⟩
  exact ⟨_, step_pending hp, cellsAtReset_resetCells _, by simp⟩

theorem inv_resetCells (s : State) : s.resetCells.Inv where
  memory := rfl
  ip := by simp
  stack k := by simp
  fault _ h := nomatch h

/-- Settles O59: the state after reset is one a Reset event leaves. -/
theorem invariantHoldsAtReset : Obligations.InvariantHoldsAtReset := inv_resetCells State.reset

/-! ## The events other than Cycle -/

/-- The invariant reads five fields and no other. -/
theorem State.Inv.congr {s t : State} (h : s.Inv) (memory : t.memory = s.memory) (ip : t.ip = s.ip)
    (stack : t.stack = s.stack) (fault : t.fault = s.fault) (params : t.params = s.params) : t.Inv where
  memory := memory ▸ h.memory
  ip := ip ▸ h.ip
  stack := stack ▸ h.stack
  fault := fault ▸ params ▸ h.fault

theorem State.Inv.popped {s : State} (h : s.Inv) : s.popped.Inv := by
  rw [popped_eq]
  exact h.congr rfl rfl rfl rfl rfl

theorem length_glyphSet (p : Params) : (glyphSet p).length = 80 := by
  simp [glyphSet, List.length_flatMap]

/-- A ROM that fits is placed inside memory (R203). -/
theorem wf_loadedMemory (p : Params) {rom : List Byte} (h : rom.length + Config.programBase ≤ Config.memSize) :
    (loadedMemory p rom).wf = true :=
  Memory.wf_writeBytes (Memory.wf_writeBytes Memory.wf_nil (by rw [length_glyphSet]; decide)) (by omega)

theorem State.Inv.loadRom {s : State} (h : s.Inv) (rom : List Byte) : (s.loadRom rom).Inv := by
  unfold State.loadRom
  split
  · exact h.congr rfl rfl rfl rfl rfl
  · exact { inv_resetCells s with memory := wf_loadedMemory s.params (by omega) }

/-! ## The Cycle -/

/-- A record whose condition holds may be taken into the latch. -/
theorem State.Inv.raise {s : State} (h : s.Inv) {r : FaultRecord} (hr : r.legal s.params) : (s.raise r).Inv where
  memory := h.memory
  ip := h.ip
  stack := h.stack
  fault _ e := Option.some.inj e ▸ hr

/-- Each kind of effect keeps the invariant, once the instruction was fetched from memory: `ip` is then at most
4096, so a call stacks no larger address. -/
theorem State.Inv.effect {s t : State} {i : Instr} (h : s.Inv) (he : ExecEffect s i t) (hw : i.wellFormed = true)
    (h2 : 2 ≤ s.ip.toNat) (hip : s.ip.toNat ≤ 4096) : t.Inv := by
  cases he with
  | raises _ legal => exact h.raise (legal hw)
  | movesIp _ reachable => exact { h with ip := reachable h2 hip }
  | pushes nnn hsp =>
    refine { h with ip := ipReachable_zextAddr s nnn h2 hip, stack := fun k => ?_ }
    rw [show (s.stack.set s.sp.val s.ip)[k] = if s.sp.val = k.val then s.ip else s.stack[k] from
      Vector.getElem_set ..]
    split
    · exact hip
    · exact h.stack k
  | pops hsp => exact { h with ip := (h.stack ⟨s.sp.val - 1, by omega⟩).trans (by decide) }
  | stores _ inMemory => exact { h with memory := wf_storeAtI h.memory inMemory }
  | registers | setsI | setsDelay | setsSound | clears | draws => exact h.congr rfl rfl rfl rfl rfl

/-- A fetch from memory keeps the invariant. -/
theorem State.Inv.fetched {s : State} (h : s.Inv) (input : CycleInput) (hip : s.ip.toNat ≤ 4094) :
    State.Inv { s.fetched with inputs := input } :=
  { h with ip := (toNat_add_two (hip.trans (by decide))).trans_le (by omega) }

theorem State.Inv.cycle {s t : State} {input : CycleInput} (h : s.Inv) (hc : s.cycle input = .next t) : t.Inv := by
  rcases cycle_cases hc with ⟨-, rfl⟩ | ⟨-, hip, rfl⟩ | ⟨-, hip, hd, rfl⟩ | ⟨-, hip, i, hd, he⟩
  · exact h
  · exact h.raise hip
  · exact (h.fetched input hip).raise hd
  · have hadv : (s.ip + 2).toNat = s.ip.toNat + 2 := toNat_add_two (hip.trans (by decide))
    exact (h.fetched input hip).effect (exec_effect he) (wellFormed_of_decode hd)
      (hadv.ge.trans' (by omega)) (hadv.trans_le (by omega))

/-! ## Every step -/

theorem State.Inv.clearOutputs {s : State} (h : s.Inv) : s.clearOutputs.Inv := h.congr rfl rfl rfl rfl rfl

theorem State.Inv.serve {s t : State} {e : Event} (h : s.Inv) (hs : s.serve e = .next t) : t.Inv := by
  rcases serve_cases hs with ⟨-, rfl⟩ | ⟨rom, -, ht⟩ | ⟨input, -, -, hc⟩ | ⟨-, -, rfl⟩ | ⟨-, -, rfl⟩ | ⟨-, -, rfl⟩
  · exact inv_resetCells _
  · exact ht ▸ h.clearOutputs.loadRom rom
  · exact h.clearOutputs.cycle hc
  · exact h.clearOutputs.congr rfl rfl rfl rfl rfl
  · exact h.clearOutputs.congr rfl rfl rfl rfl rfl
  · exact h.clearOutputs.congr rfl rfl rfl rfl rfl

/-- Settles O60: a step serves one event of a state that differs in the queue only. -/
theorem stepKeepsTheInvariant : Obligations.StepKeepsTheInvariant := fun _ _ h hs => h.popped.serve hs

end Sys2Proof.Machine

/-! SUPPORT. Memory accesses (20_memory.md): a fetch or a data access out of range faults and does nothing else, and
the next fetch sees what was stored. -/

namespace Sys2Proof.Machine

/-! ## Out of range -/

/-- Taking a fault writes the latch alone (R175). -/
theorem raisesOnly_raise (s : State) (r : FaultRecord) : RaisesOnly s (s.raise r) r := ⟨rfl, fun _ => rfl⟩

/-- A data instruction out of range faults, whatever its body is (R47). -/
theorem raisesOnly_withData {s : State} {count : Nat} (body : State) (hc : count ≠ 0)
    (h : 4096 < s.i.toNat + count) : RaisesOnly s (s.withData count body) (.dataOutOfRange s.i) := by
  rw [withData_outOfRange body hc h]
  exact raisesOnly_raise s _

/-- Settles O40: each of the four instructions is its body guarded by the range check. -/
theorem dataOutOfRangeChangesNothing : Obligations.DataOutOfRangeChangesNothing := by
  intro s x y n
  refine ⟨fun h => ⟨_, rfl, ?digits⟩, fun h => ⟨_, rfl, ?store⟩, fun h => ⟨_, rfl, ?load⟩,
    fun hn h => ⟨_, rfl, ?draw⟩⟩
  case digits | store | load | draw => exact raisesOnly_withData _ (by omega) (by omega)

/-- A scheduled Cycle of a machine without a fault starts with the output pulses ended (R80, R144). -/
theorem step_cycle {s : State} {input : CycleInput} {rest : List Event} (hfault : s.fault = none)
    (hpending : s.pending = .cycle input :: rest) :
    step s = State.cycle { s with pending := rest, drawReq := false, loadError := false } input :=
  (step_pending hpending).trans (ifNoFault_of_none _ hfault)

/-- Settles O9: the Cycle faults before it latches a word or advances `ip`. -/
theorem fetchOutOfRangeChangesNothing : Obligations.FetchOutOfRangeChangesNothing := by
  intro s input rest hfault hmode hip hpending
  rw [step_cycle hfault hpending]
  exact cycle_outOfRange input hmode hip

/-! ## The next fetch after a store -/

section
variable {s : State} {bs : List Byte} {n : Nat} {byte : Nat → Byte} (hwf : s.memory.wf = true)
  (hr : s.i.toNat + n ≤ 4096) (hlen : bs.length = n) (hbs : ∀ k < n, bs[k]? = some (byte k))
include hwf hr hlen hbs

/-- What every address reads as after bytes are stored at `I` (R44). -/
theorem read_storeAtI (a : Nat) : (s.storeAtI bs).memory.read a = byteAfterStore s n byte a := by
  subst hlen
  have hread : (s.storeAtI bs).memory.read a = _ := Memory.read_writeBytes (k := a) hwf hr
  rw [hread, byteAfterStore]
  by_cases hge : s.i.toNat ≤ a
  · by_cases hlt : a < s.i.toNat + bs.length
    · simp [hge, hlt, hbs (a - s.i.toNat) (by omega)]
    · have hout : bs.length ≤ a - s.i.toNat := by omega
      simp [hge, hlt, List.getElem?_eq_none hout]
  · simp [hge]

/-- A storing instruction in range keeps `ip`, and both bytes there read as stored (R54). -/
theorem nextFetch_of_store :
    ∃ t, (.next (s.withData n (s.storeAtI bs)) : Host.Outcome State Fault Refusal) = .next t ∧ t.ip = s.ip ∧
      t.fetchWord = wordOfBytes (byteAfterStore s n byte s.ip.toNat) (byteAfterStore s n byte (s.ip.toNat + 1)) := by
  refine ⟨s.storeAtI bs, by rw [withData_inRange _ (.inr hr)], rfl, ?_⟩
  have hread := read_storeAtI hwf hr hlen hbs
  exact congrArg₂ wordOfBytes (hread s.ip.toNat) (hread (s.ip.toNat + 1))

end

/-- The `k`-th byte `Fx55` stores is `V[k]` (R134). -/
theorem getElem?_regsUpTo_ofNat (s : State) (x : RegNum) {k : Nat} (hk : k < x.val + 1) :
    (s.regsUpTo x)[k]? = some (s.reg (Fin.ofNat 16 k)) := by
  have hval : (Fin.ofNat 16 k).val = k := Nat.mod_eq_of_lt (by omega)
  have hget := getElem?_regsUpTo s x (Fin.ofNat 16 k) (show (Fin.ofNat 16 k).val ≤ x.val by omega)
  rwa [hval] at hget

/-- The `k`-th byte `Fx33` stores is decimal digit `k` (R133). -/
theorem getElem?_decimalDigits (b : Byte) {k : Nat} (hk : k < 3) :
    (decimalDigits b)[k]? = some (decimalDigit b k) := by
  have hhundreds : b.toNat / 100 % 10 = b.toNat / 100 := Nat.mod_eq_of_lt (by have := b.isLt; omega)
  match k, hk with
  | 0, _ => simp [decimalDigits, decimalDigit, hhundreds]
  | 1, _ => rfl
  | 2, _ => simp [decimalDigits, decimalDigit]

/-- Settles O42: the bytes stored are `V0..Vx`, or the digits of `Vx`. -/
theorem nextFetchSeesTheStore : Obligations.NextFetchSeesTheStore := by
  intro s x hwf
  refine ⟨fun hr => ?regs, fun hr => ?digits⟩
  case regs =>
    exact nextFetch_of_store hwf (by omega) (length_regsUpTo s x) fun _ => getElem?_regsUpTo_ofNat s x
  case digits =>
    exact nextFetch_of_store hwf (by omega) (length_decimalDigits _) fun _ => getElem?_decimalDigits _

end Sys2Proof.Machine

/-! SUPPORT. The decoder against the encoder and against the opcode map (30_encoding.md R62 to R67). -/

namespace Sys2Proof.Machine

/-! ## Formats that pass their word on (R65) -/

section
variable {strict : Bool} {w : Word} {i j : Instr}

theorem decodeLowNibbleZero_accepts (h : nField w = 0 ∨ strict = false) : decodeLowNibbleZero strict w i = .ok i :=
  if_pos h

theorem decodeLowNibbleZero_rejects (h : nField w ≠ 0) :
    decodeLowNibbleZero true w i = .error (.invalidOpcode w) :=
  if_neg (by simp [h])

theorem decodeLowNibbleZero_ok (h : decodeLowNibbleZero true w j = .ok i) : nField w = 0 ∧ j = i := by
  by_cases hn : nField w = 0
  · rw [decodeLowNibbleZero_accepts (.inl hn)] at h
    exact ⟨hn, Except.ok.inj h⟩
  · rw [decodeLowNibbleZero_rejects hn] at h
    cases h

theorem decodeWord_encodeXYN_5 (strict : Bool) (x y : RegNum) (n : BitVec 4) :
    decodeWord strict (encodeXYN 0x5 x y n) = decodeLowNibbleZero strict (encodeXYN 0x5 x y n) (.seReg x y) := by
  simp [decodeWord]

theorem decodeWord_encodeXYN_9 (strict : Bool) (x y : RegNum) (n : BitVec 4) :
    decodeWord strict (encodeXYN 0x9 x y n) = decodeLowNibbleZero strict (encodeXYN 0x9 x y n) (.sneReg x y) := by
  simp [decodeWord]

theorem decodeWord_format0 (ho : opField w = 0) : decodeWord strict w = decodeFormat0 w := by
  simp [decodeWord, ho]

end

/-! ## Round trips (R62, R64) -/

/-- Settles O2: the decoder reads back the fields the encoder wrote, and the selector among them picks the same
operation. -/
theorem decodeOfEncode : Obligations.DecodeOfEncode := by
  intro strict i hw
  cases i with
  | cls | ret => rfl
  | jp | call | ldI | jpV0 | seImm | sneImm | ldImm | addImm | rnd => simp [encode, decodeWord]
  | seReg => exact (decodeWord_encodeXYN_5 ..).trans (decodeLowNibbleZero_accepts (.inl (nField_encodeXYN ..)))
  | sneReg => exact (decodeWord_encodeXYN_9 ..).trans (decodeLowNibbleZero_accepts (.inl (nField_encodeXYN ..)))
  | ldReg | orReg | andReg | xorReg | addReg | subReg | shr | subnReg | shl =>
    simp [encode, decodeWord, decodeFormat8]
  | drw x y n =>
    have hn : n ≤ 15 := of_decide_eq_true hw
    have hfits : n % 16 = n := Nat.mod_eq_of_lt (by omega)
    simp [encode, decodeWord, hfits]
  | skp | sknp => simp [encode, decodeWord, decodeFormatE]
  | ldVxDT | ldVxK | ldDTVx | ldSTVx | addIVx | ldFVx | ldBVx | ldMemVx | ldVxMem =>
    simp [encode, decodeWord, decodeFormatF]

section
variable {w : Word} {i : Instr}

theorem encode_of_decodeFormat0 (h : decodeFormat0 w = .ok i) : encode i = w := by
  unfold decodeFormat0 at h
  split at h
  · cases h; exact Eq.symm ‹w = 0x00E0›
  · split at h
    · cases h; exact Eq.symm ‹w = 0x00EE›
    · cases h

theorem encode_of_decodeFormat8 (ho : opField w = 0x8) (h : decodeFormat8 w = .ok i) : encode i = w := by
  unfold decodeFormat8 at h
  split at h <;> cases h <;> exact encodeXYN_of ho (congrArg _ ‹nField w = _›)

theorem encode_of_decodeFormatE (ho : opField w = 0xE) (h : decodeFormatE w = .ok i) : encode i = w := by
  unfold decodeFormatE at h
  split at h <;> cases h <;> exact encodeXKK_of ho (kkField_eq ‹_›)

theorem encode_of_decodeFormatF (ho : opField w = 0xF) (h : decodeFormatF w = .ok i) : encode i = w := by
  unfold decodeFormatF at h
  split at h <;> cases h <;> exact encodeXKK_of ho (kkField_eq ‹_›)

end

/-- Settles O3: in each format the primary format, the selector and the operands are together the whole word. -/
theorem encodeOfDecode : Obligations.EncodeOfDecode := by
  intro w i h
  unfold decodeWord at h
  split at h
  -- 0x0
  case h_1 => exact encode_of_decodeFormat0 h
  -- 1nnn, 2nnn, Annn, Bnnn
  case h_2 ho | h_3 ho | h_11 ho | h_12 ho => cases h; exact encodeNNN_of (opField_eq ho)
  -- 3xkk, 4xkk, 6xkk, 7xkk, Cxkk
  case h_4 ho | h_5 ho | h_7 ho | h_8 ho | h_13 ho => cases h; exact encodeXKK_of (opField_eq ho) rfl
  -- 5xy0, 9xy0
  case h_6 ho | h_10 ho =>
    obtain ⟨hn, rfl⟩ := decodeLowNibbleZero_ok h
    exact encodeXYN_of (opField_eq ho) (congrArg _ hn)
  -- 0x8
  case h_9 ho => exact encode_of_decodeFormat8 (opField_eq ho) h
  -- Dxyn
  case h_14 ho => cases h; exact encodeXYN_of (opField_eq ho) rfl
  -- 0xE
  case h_15 ho => exact encode_of_decodeFormatE (opField_eq ho) h
  -- 0xF, the one primary format left
  case h_16 =>
    have ho : (opField w).toNat = 0xF := by have := (opField w).isLt; grind
    exact encode_of_decodeFormatF (opField_eq ho) h

/-! ## The opcode map (R64) -/

/-- A word in two rows has the fixed bits of both. -/
theorem pattern_and_mask_eq_of_matches {r r' : OpcodeRow} {w : Word} (h : r.matches w = true)
    (h' : r'.matches w = true) : r.pattern &&& r'.mask = r'.pattern &&& r.mask := by
  rw [← eq_of_beq h, ← eq_of_beq h', BitVec.and_assoc, BitVec.and_assoc, BitVec.and_comm r.mask]

/-- Any two rows of the map differ in a bit that both fix. -/
theorem opcodeTable_disjoint :
    ∀ r ∈ opcodeTable, ∀ r' ∈ opcodeTable, r.pattern &&& r'.mask = r'.pattern &&& r.mask → r = r' := by
  decide

theorem encodeInRow : ∀ i : Instr, Laws.EncodeInRow.Statement i
  | .cls => Laws.EncodeInRow.cls
  | .ret => Laws.EncodeInRow.ret
  | .jp nnn => Laws.EncodeInRow.jp nnn
  | .call nnn => Laws.EncodeInRow.call nnn
  | .seImm x kk => Laws.EncodeInRow.seImm x kk
  | .sneImm x kk => Laws.EncodeInRow.sneImm x kk
  | .seReg x y => Laws.EncodeInRow.seReg x y
  | .ldImm x kk => Laws.EncodeInRow.ldImm x kk
  | .addImm x kk => Laws.EncodeInRow.addImm x kk
  | .ldReg x y => Laws.EncodeInRow.ldReg x y
  | .orReg x y => Laws.EncodeInRow.orReg x y
  | .andReg x y => Laws.EncodeInRow.andReg x y
  | .xorReg x y => Laws.EncodeInRow.xorReg x y
  | .addReg x y => Laws.EncodeInRow.addReg x y
  | .subReg x y => Laws.EncodeInRow.subReg x y
  | .shr x y => Laws.EncodeInRow.shr x y
  | .subnReg x y => Laws.EncodeInRow.subnReg x y
  | .shl x y => Laws.EncodeInRow.shl x y
  | .sneReg x y => Laws.EncodeInRow.sneReg x y
  | .ldI nnn => Laws.EncodeInRow.ldI nnn
  | .jpV0 nnn => Laws.EncodeInRow.jpV0 nnn
  | .rnd x kk => Laws.EncodeInRow.rnd x kk
  | .drw x y n => Laws.EncodeInRow.drw x y n
  | .skp x => Laws.EncodeInRow.skp x
  | .sknp x => Laws.EncodeInRow.sknp x
  | .ldVxDT x => Laws.EncodeInRow.ldVxDT x
  | .ldVxK x => Laws.EncodeInRow.ldVxK x
  | .ldDTVx x => Laws.EncodeInRow.ldDTVx x
  | .ldSTVx x => Laws.EncodeInRow.ldSTVx x
  | .addIVx x => Laws.EncodeInRow.addIVx x
  | .ldFVx x => Laws.EncodeInRow.ldFVx x
  | .ldBVx x => Laws.EncodeInRow.ldBVx x
  | .ldMemVx x => Laws.EncodeInRow.ldMemVx x
  | .ldVxMem x => Laws.EncodeInRow.ldVxMem x

/-- A word that decodes lies in the row of its instruction. -/
theorem row_of_decode {w : Word} {i : Instr} (h : decodeWord true w = .ok i) :
    i.row ∈ opcodeTable ∧ i.row.matches w = true := by
  have hrow := encodeInRow i
  rwa [Laws.EncodeInRow.Statement, encodeOfDecode w i h] at hrow

/-- The pattern of a row, the word with every operand 0, decodes into that row. -/
theorem decodeWord_pattern : ∀ r ∈ opcodeTable, (decodeWord true r.pattern).map Instr.row = .ok r := by
  decide

theorem exists_instr_of_row {r : OpcodeRow} (h : r ∈ opcodeTable) : ∃ i : Instr, i.row = r := by
  have hd := decodeWord_pattern r h
  cases hi : decodeWord true r.pattern with
  | ok i => exact ⟨i, by simpa [hi, Except.map] using hd⟩
  | error e => simp [hi, Except.map] at hd

section
variable {w p m : Word} (h : (OpcodeRow.mk p m).matches w = true)
include h

theorem opField_of_matches (hm : m.extractLsb' 12 4 = 0xF) : opField w = p.extractLsb' 12 4 :=
  opField_of_and (eq_of_beq h) hm

theorem nField_of_matches (hm : m.extractLsb' 0 4 = 0xF) : nField w = (p.extractLsb' 0 4).toNat :=
  nField_of_and (eq_of_beq h) hm

theorem kkField_of_matches (hm : m.extractLsb' 0 8 = 0xFF) : kkField w = p.extractLsb' 0 8 :=
  kkField_of_and (eq_of_beq h) hm

theorem eq_pattern_of_matches (hm : m = BitVec.allOnes 16) : w = p := by
  have hw : w &&& m = p := eq_of_beq h
  rwa [hm, BitVec.and_allOnes] at hw

end

/-- A word in an instruction's row decodes to an instruction of that row: the fixed bits are the primary format and
the selector the decoder looks at. -/
theorem decode_of_matches_row {w : Word} (i : Instr) (h : i.row.matches w = true) :
    ∃ j, decodeWord true w = .ok j ∧ j.row = i.row := by
  cases i with
  | cls => cases eq_pattern_of_matches h rfl; exact ⟨.cls, rfl, rfl⟩
  | ret => cases eq_pattern_of_matches h rfl; exact ⟨.ret, rfl, rfl⟩
  | jp | call | seImm | sneImm | ldImm | addImm | ldI | jpV0 | rnd | drw =>
    have ho := opField_of_matches h (by decide)
    simp [decodeWord, ho, Instr.row]
  | seReg | sneReg | ldReg | orReg | andReg | xorReg | addReg | subReg | shr | subnReg | shl =>
    have ho := opField_of_matches h (by decide)
    have hn := nField_of_matches h (by decide)
    simp [decodeWord, decodeLowNibbleZero, decodeFormat8, ho, hn, Instr.row]
  | skp | sknp | ldVxDT | ldVxK | ldDTVx | ldSTVx | addIVx | ldFVx | ldBVx | ldMemVx | ldVxMem =>
    have ho := opField_of_matches h (by decide)
    have hk := kkField_of_matches h (by decide)
    simp [decodeWord, decodeFormatE, decodeFormatF, ho, hk, Instr.row]

/-- Settles O4: the rows differ in bits they fix, and the decoder looks at the fixed bits. -/
theorem decoderFollowsOpcodeMap : Obligations.DecoderFollowsOpcodeMap := by
  refine ⟨rfl, fun w r r' hr hr' h h' => ?disjoint, fun w i => row_of_decode, fun w r hr h => ?decodes⟩
  case disjoint => exact opcodeTable_disjoint r hr r' hr' (pattern_and_mask_eq_of_matches h h')
  case decodes =>
    obtain ⟨i, rfl⟩ := exists_instr_of_row hr
    exact decode_of_matches_row i h

/-! ## Fixed words and invalid words (R65 to R67) -/

/-- Settles O1: eight words, each computed by the decoder. -/
theorem sampleWordsDecode : Obligations.SampleWordsDecode := by
  unfold Obligations.SampleWordsDecode
  decide

/-- Settles O5: the format compares the whole word with the two. -/
theorem zeroFormatIsNeverAJump : Obligations.ZeroFormatIsNeverAJump := by
  intro strict w ho hcls hret
  rw [decodeWord_format0 ho, decodeFormat0, if_neg hcls, if_neg hret]

/-- Settles O6: both formats pass their word to the one check of the low nibble. -/
theorem lowNibblePolicyDecides : Obligations.LowNibblePolicyDecides := by
  intro x y n hn
  have hn' (op : BitVec 4) : nField (encodeXYN op x y n) ≠ 0 := by
    rw [nField_encodeXYN]
    exact fun h => hn (BitVec.eq_of_toNat_eq h)
  simp only [decodeWord_encodeXYN_5, decodeWord_encodeXYN_9]
  exact ⟨decodeLowNibbleZero_rejects (hn' 0x5), decodeLowNibbleZero_rejects (hn' 0x9),
    decodeLowNibbleZero_accepts (.inr rfl), decodeLowNibbleZero_accepts (.inr rfl)⟩

/-- A word in no row of the map is invalid (R66). -/
theorem decodeWord_of_no_row {w : Word} (h : ∀ r ∈ opcodeTable, r.matches w = false) :
    decodeWord true w = .error (.invalidOpcode w) := by
  cases hd : decodeWord true w with
  | ok i =>
    obtain ⟨hmem, hmatch⟩ := row_of_decode hd
    rw [h _ hmem] at hmatch
    cases hmatch
  | error e => rw [decodeWord_error hd]

/-- Settles O8: the word of no row is invalid, so the Cycle faults on the state its fetch left. -/
theorem invalidWordFaultsAfterTheAdvance : Obligations.InvalidWordFaultsAfterTheAdvance := by
  rintro s input rest w hfault hmode hip hpending hstrict rfl hrow
  have hd := decodeWord_of_no_row hrow
  rw [← hstrict] at hd
  rw [step_cycle hfault hpending]
  exact ⟨_, cycle_invalid input hmode hip hd, rfl, rfl, toNat_add_two (hip.trans (by decide)), rfl⟩

end Sys2Proof.Machine

/-! SUPPORT. The engine cycle and the host events other than Load and Reset (40_engine_cycle.md R80 to R92). -/

namespace Sys2Proof.Machine

/-! ## One step, by the event it serves (R80) -/

/-- An unscheduled Cycle of a machine without a fault takes free inputs and counts them (log entry 2). -/
theorem step_freeCycle {s : State} (hfault : s.fault = none) (hpending : s.pending = []) :
    step s = State.cycle { s with draws := s.draws + 1, drawReq := false, loadError := false } (freeInput s.draws) :=
  (step_unscheduled hpending).trans (ifNoFault_of_none _ hfault)

/-- A Tick of a machine without a fault steps the timers once the output pulses have ended (R144, R163). -/
theorem step_tick {s : State} {rest : List Event} (hfault : s.fault = none) (hpending : s.pending = .tick :: rest) :
    step s = .next (State.tickTimers { s with pending := rest, drawReq := false, loadError := false }) :=
  (step_pending hpending).trans (ifNoFault_of_none _ hfault)

/-- Settles O7: the step is a Cycle, and the word a Cycle fetches is that of the two bytes at `ip`. -/
theorem stepRunsTheDecodedInstruction : Obligations.StepRunsTheDecodedInstruction := by
  intro s i hfault hmode hip hd
  refine ⟨fun input rest hpending => ?scheduled, fun hpending => ?free⟩
  case scheduled => exact (step_cycle hfault hpending).trans (cycle_runs input hmode hip hd)
  case free => exact (step_freeCycle hfault hpending).trans (cycle_runs _ hmode hip hd)

/-- Settles O13: both events are served as one write of `mode`. -/
theorem idleAndResumeWriteModeOnly : Obligations.IdleAndResumeWriteModeOnly := fun _ _ hfault =>
  ⟨fun hpending => (step_pending hpending).trans (ifNoFault_of_none _ hfault),
    fun hpending => (step_pending hpending).trans (ifNoFault_of_none _ hfault)⟩

/-! ## A faulted machine (R82) -/

/-- A faulted machine answers its record at every event but Reset and Load. -/
theorem serve_faulted {s : State} {r : FaultRecord} {e : Event} (h : s.fault = some r) (hl : ∀ rom, e ≠ .load rom)
    (hr : e ≠ .reset) : s.serve e = .fault (.stopped r) := by
  cases e with
  | reset => exact absurd rfl hr
  | load rom => exact absurd rfl (hl rom)
  | cycle | tick | idle | resume => exact ifNoFault_of_some _ h

@[simp] theorem popped_fault (s : State) : s.popped.fault = s.fault := by rw [popped_eq]

@[simp] theorem popped_mode (s : State) : s.popped.mode = s.mode := by rw [popped_eq]

/-- Settles O14: taking the event off the queue leaves the latch set. -/
theorem faultedMachineHasNoStep : Obligations.FaultedMachineHasNoStep := fun s _ hfault =>
  serve_faulted ((popped_fault s).trans hfault)

/-! ## Mode idle (R81) -/

/-- A scheduled Cycle in mode idle ends the output pulses and changes no cell. -/
theorem step_cycle_idle {s : State} {input : CycleInput} {rest : List Event} (hfault : s.fault = none)
    (hmode : s.mode = .idle) (hpending : s.pending = .cycle input :: rest) :
    step s = .next { s with pending := rest, drawReq := false, loadError := false } :=
  (step_cycle hfault hpending).trans (cycle_idle input hmode)

/-- A Cycle or a Tick in mode idle writes the timers at most. -/
theorem step_idle_frame {s : State} {e : Event} {rest : List Event} (hfault : s.fault = none) (hmode : s.mode = .idle)
    (hpending : s.pending = e :: rest) (he : e = .tick ∨ ∃ input, e = .cycle input) :
    ∃ delay sound, step s = .next { s with
      delay := delay, sound := sound, pending := rest, drawReq := false, loadError := false } := by
  rcases he with rfl | ⟨input, rfl⟩
  · exact ⟨_, _, step_tick hfault hpending⟩
  · exact ⟨_, _, step_cycle_idle hfault hmode hpending⟩

/-- Any number of Cycles and Ticks in mode idle write the timers at most. -/
theorem run_idle_frame {s : State} {events : List Event} (hfault : s.fault = none) (hmode : s.mode = .idle)
    (hpending : s.pending = events) (hevents : ∀ e ∈ events, e = .tick ∨ ∃ input, e = .cycle input) :
    ∃ t : State, core.run events.length s = .next t ∧
      t = { s with delay := t.delay, sound := t.sound, pending := [], drawReq := t.drawReq,
                   loadError := t.loadError } := by
  induction events generalizing s with
  | nil => exact ⟨s, rfl, by rw [← hpending]⟩
  | cons e events ih =>
    obtain ⟨he, hevents⟩ := List.forall_mem_cons.1 hevents
    obtain ⟨delay, sound, hstep⟩ := step_idle_frame hfault hmode hpending he
    obtain ⟨t, hrun, ht⟩ := ih (s := { s with
      delay := delay, sound := sound, pending := events, drawReq := false, loadError := false })
      hfault hmode rfl hevents
    exact ⟨t, (core_run_succ _ hstep).trans hrun, ht⟩

/-- Settles O10: one Cycle leaves every cell; a run is an induction over the events pending. -/
theorem idleCyclesChangeNothing : Obligations.IdleCyclesChangeNothing :=
  ⟨fun _ _ _ hfault hmode hpending => step_cycle_idle hfault hmode hpending,
    fun _ _ hfault hmode hpending hevents => run_idle_frame hfault hmode hpending hevents⟩

/-! ## Who changes `mode` (R91) -/

/-- Each kind of effect keeps `mode`. -/
theorem exec_mode {i : Instr} {s t : State} (h : exec i s = .next t) : t.mode = s.mode := by
  cases exec_effect h with
  | raises | registers | movesIp | pushes | pops | setsI | setsDelay | setsSound | stores | clears | draws => rfl

/-- A Cycle keeps `mode`, whether it idles, faults or runs an instruction. -/
theorem cycle_mode {s t : State} {input : CycleInput} (h : s.cycle input = .next t) : t.mode = s.mode := by
  rcases cycle_cases h with ⟨-, rfl⟩ | ⟨-, -, rfl⟩ | ⟨-, -, -, rfl⟩ | ⟨-, -, i, -, he⟩
  · rfl
  · rfl
  · rfl
  · exact (exec_mode he).trans (State.fetched_mode s)

/-- A Load that is reported as a failure keeps `mode`; one that fits leaves it running (R178, R203). -/
theorem loadRom_mode (s : State) (rom : List Byte) :
    (s.loadRom rom).mode = s.mode ∨ (s.loadRom rom).mode = .running := by
  unfold State.loadRom
  split
  · exact .inl rfl
  · exact .inr rfl

/-- What an event may do to `mode`. -/
theorem serve_mode {s t : State} {e : Event} (h : s.serve e = .next t) :
    t.mode = s.mode ∨ (t.mode = .idle ∧ e = .idle) ∨
      (t.mode = .running ∧ (e = .resume ∨ e = .reset ∨ ∃ rom, e = .load rom)) := by
  rcases serve_cases h with ⟨he, rfl⟩ | ⟨rom, he, ht⟩ | ⟨input, -, -, hc⟩ |
    ⟨-, -, rfl⟩ | ⟨he, -, rfl⟩ | ⟨he, -, rfl⟩
  · exact .inr (.inr ⟨rfl, .inr (.inl he)⟩)
  · rw [ht]
    exact (loadRom_mode s.clearOutputs rom).imp (·.trans (State.clearOutputs_mode s)) fun hm =>
      .inr ⟨hm, .inr (.inr ⟨rom, he⟩)⟩
  · exact .inl ((cycle_mode hc).trans (State.clearOutputs_mode s))
  · exact .inl rfl
  · exact .inr (.inl ⟨rfl, he⟩)
  · exact .inr (.inr ⟨rfl, .inl he⟩)

/-- Settles O18: a step serves one event of a state of the same `mode`. -/
theorem onlyHostEventsChangeMode : Obligations.OnlyHostEventsChangeMode := by
  refine ⟨fun _ _ _ => exec_mode, fun s t h hne => ?_⟩
  exact (serve_mode h).resolve_left fun hm => hne (hm.trans (popped_mode s))

/-! ## A jump to itself (R92) -/

/-- Below 4096 the word `0x1000 + ip` is the encoding of a jump to `ip` (R62, R100). -/
theorem encode_jp_self {w : Word} (h : w.toNat < 4096) : encode (.jp (w.setWidth 12)) = 0x1000 + w := by
  apply BitVec.eq_of_toNat_eq
  have hfield : w.toNat % 2 ^ 12 = w.toNat := Nat.mod_eq_of_lt h
  simp only [encode, encodeNNN, BitVec.toNat_append, BitVec.toNat_setWidth, hfield]
  rw [← Nat.shiftLeft_add_eq_or_of_lt h]
  bv_omega

/-- Below 4096 an address is the target of the jump whose field it fills. -/
theorem zextAddr_setWidth {w : Word} (h : w.toNat < 4096) : zextAddr (w.setWidth 12) = w := by
  apply BitVec.eq_of_toNat_eq
  simp only [zextAddr, BitVec.toNat_setWidth]
  omega

/-- What a machine at a jump to itself fetches, and from where. -/
theorem atSelfJump_iff (s : State) :
    s.atSelfJump = true ↔ s.ip.toNat ≤ 4094 ∧ s.fetchWord = 0x1000 + s.ip := by
  simp only [State.atSelfJump, State.fetchInRange, Bool.and_eq_true, decide_eq_true_eq]
  exact ⟨fun ⟨⟨hip, hw⟩, _⟩ => ⟨hip, hw⟩, fun ⟨hip, hw⟩ => ⟨⟨hip, hw⟩, by omega⟩⟩

/-- Settles O19: the word decodes to the jump whose target is the `ip` the Cycle began with. -/
theorem selfJumpChangesOnlyOpcode : Obligations.SelfJumpChangesOnlyOpcode := by
  intro s input rest hfault hmode hself hpending
  obtain ⟨hip, hw⟩ := (atSelfJump_iff s).1 hself
  have hlt : s.ip.toNat < 4096 := by omega
  have hd : decodeWord s.params.strictLowNibble s.fetchWord = .ok (.jp (s.ip.setWidth 12)) := by
    rw [hw, ← encode_jp_self hlt]
    exact decodeOfEncode _ _ rfl
  have hstep := (stepRunsTheDecodedInstruction s _ hfault hmode hip hd).1 input rest hpending
  refine ⟨_, hstep, ?_⟩
  rw [zextAddr_setWidth hlt]
  rfl

/-! ## Every instruction runs (R86) -/

/-- Settles O53: every arm answers a next state outright but the five flag writers, which refuse one form. -/
theorem everyInstructionRuns : Obligations.EveryInstructionRuns := by
  intro i s h
  cases i with
  | addReg x | subReg x | shr x | subnReg x | shl x =>
    exact ⟨_, flagWriter_next _ (h.imp id of_decide_eq_true)⟩
  | cls | ret | jp | call | seImm | sneImm | seReg | ldImm | addImm | ldReg | orReg | andReg | xorReg | sneReg | ldI
  | jpV0 | rnd | drw | skp | sknp | ldVxDT | ldVxK | ldDTVx | ldSTVx | addIVx | ldFVx | ldBVx | ldMemVx | ldVxMem =>
    exact ⟨_, rfl⟩

end Sys2Proof.Machine

/-! SUPPORT. The control-transfer instructions (41_control_flow.md R100 to R107). -/

namespace Sys2Proof.Machine

/-! ## Encodings (R64) -/

/-- An instruction's encoding has the fixed bits of its row and decodes to it under either decoder. -/
theorem encodedAs_row {i : Instr} (h : i.wellFormed = true) : EncodedAs i i.row.pattern i.row.mask :=
  ⟨eq_of_beq (encodeInRow i).2, fun strict => decodeOfEncode strict i h⟩

/-! ## Writes to `ip` -/

theorem movesIp_setIp (s : State) {w : Word} {target : Nat} (h : w.toNat = target) :
    MovesIp s (s.setIp w) target :=
  ⟨h, rfl, fun _ => rfl⟩

@[simp] theorem zextAddr_toNat (nnn : Addr12) : (zextAddr nnn).toNat = nnn.toNat :=
  BitVec.toNat_setWidth_of_le (by decide)

/-- The sum of `Bnnn` does not wrap (R107). -/
theorem zextByte_add_zextAddr_toNat (b : Byte) (nnn : Addr12) :
    (zextByte b + zextAddr nnn).toNat = b.toNat + nnn.toNat := by
  have hb := b.isLt
  have hn := nnn.isLt
  simp only [zextByte, BitVec.toNat_add, BitVec.toNat_setWidth, zextAddr_toNat]
  omega

/-- Settles O20: both jumps write `ip` alone, and neither target wraps. -/
theorem jumpsSetIp : Obligations.JumpsSetIp := fun s nnn =>
  ⟨⟨encodedAs_row rfl, _, rfl, movesIp_setIp s (zextAddr_toNat nnn)⟩,
    encodedAs_row rfl, _, rfl, movesIp_setIp s (zextByte_add_zextAddr_toNat (s.reg 0) nnn)⟩

/-! ## Skips (R103 to R106) -/

/-- A skip moves `ip` on when its condition holds and changes nothing else. -/
theorem movesIp_skipIf (s : State) (c : Bool) :
    MovesIp s (s.skipIf c) (if c then (s.ip.toNat + 2) % 65536 else s.ip.toNat) := by
  refine ⟨?_, rfl, fun _ => rfl⟩
  cases c with
  | true => exact BitVec.toNat_add s.ip 2
  | false => rfl

theorem movesIp_skipIf_beq (s : State) (a b : Byte) :
    MovesIp s (s.skipIf (a == b)) (if a = b then (s.ip.toNat + 2) % 65536 else s.ip.toNat) := by
  simpa using movesIp_skipIf s (a == b)

theorem movesIp_skipIf_bne (s : State) (a b : Byte) :
    MovesIp s (s.skipIf (a != b)) (if a = b then s.ip.toNat else (s.ip.toNat + 2) % 65536) := by
  simpa using movesIp_skipIf s (a != b)

/-- Settles O21: `3xkk` tests the equality of `Vx` and `kk`, `4xkk` its negation. -/
theorem immediateSkips : Obligations.ImmediateSkips := fun s x kk =>
  ⟨⟨encodedAs_row rfl, _, rfl, movesIp_skipIf_beq s (s.reg x) kk⟩,
    encodedAs_row rfl, _, rfl, movesIp_skipIf_bne s (s.reg x) kk⟩

/-- Settles O22: `5xy0` tests the equality of `Vx` and `Vy`, `9xy0` its negation. -/
theorem registerSkips : Obligations.RegisterSkips := fun s x y =>
  ⟨⟨_, rfl, movesIp_skipIf_beq s (s.reg x) (s.reg y)⟩, _, rfl, movesIp_skipIf_bne s (s.reg x) (s.reg y)⟩

/-! ## Call and return (R101, R102) -/

section
variable {s : State}

theorem callTo_of_room (target : Word) (h : s.sp.val < 16) : s.callTo target =
    { s with stack := s.stack.set s.sp.val s.ip, sp := ⟨s.sp.val + 1, by omega⟩, ip := target } :=
  dif_pos h

theorem callTo_full (target : Word) (h : s.sp = 16) : s.callTo target = s.raise .stackOverflow :=
  dif_neg (by simp [h])

theorem returnFromCall_of_pos (h : 0 < s.sp.val) : s.returnFromCall =
    { s with ip := s.stack[s.sp.val - 1], sp := ⟨s.sp.val - 1, by omega⟩ } :=
  dif_pos h

theorem returnFromCall_empty (h : s.sp = 0) : s.returnFromCall = s.raise .stackUnderflow :=
  dif_neg (by simp [h])

end

/-- Settles O23: a call with room pushes, a return above depth 0 pops. -/
theorem callPushesAndReturnPops : Obligations.CallPushesAndReturnPops := by
  refine fun s nnn => ⟨fun h => ⟨_, rfl, ?call⟩, fun h => ⟨_, rfl, ?ret⟩⟩
  case call =>
    have hroom : s.sp.val < 16 := Fin.val_lt_last h
    rw [callTo_of_room _ hroom]
    exact ⟨zextAddr_toNat nnn, rfl, by simp, fun k hk => Vector.getElem?_set_ne hroom hk.symm, rfl, fun _ => rfl⟩
  case ret =>
    have hpos : 0 < s.sp.val := Fin.pos_of_ne_zero h
    rw [returnFromCall_of_pos hpos]
    exact ⟨Vector.getElem?_eq_getElem _, Nat.sub_add_cancel hpos, rfl, fun _ => rfl⟩

/-- Settles O24: at the ends the call and the return only take their fault. -/
theorem stackFaultsAtTheEnds : Obligations.StackFaultsAtTheEnds := by
  refine fun s nnn => ⟨fun h => ⟨_, rfl, ?full⟩, fun h => ⟨_, rfl, ?empty⟩⟩
  case full =>
    rw [callTo_full _ h]
    exact raisesOnly_raise s _
  case empty =>
    rw [returnFromCall_empty h]
    exact raisesOnly_raise s _

/-- Settles O25: the slot the return reads is the one the call wrote. -/
theorem callThenReturnRestoresIp : Obligations.CallThenReturnRestoresIp := by
  intro s t u nnn hroom hcall hstack hsp
  obtain ⟨t', hcall', -, hdepth, hslot, -⟩ := (callPushesAndReturnPops s nnn).1 hroom
  obtain rfl : t' = t := Host.Outcome.next.inj (hcall'.symm.trans hcall)
  have hu : u.sp.val = s.sp.val + 1 := by rw [hsp, hdepth]
  have hpos : u.sp ≠ 0 := fun h => by simp [h] at hu
  obtain ⟨r, hret, htop, hr, -⟩ := (callPushesAndReturnPops u nnn).2 hpos
  refine ⟨r, hret, ?ip, Fin.ext (by omega)⟩
  case ip =>
    rw [hu, Nat.add_sub_cancel, hstack, hslot] at htop
    exact (Option.some.inj htop).symm

end Sys2Proof.Machine


/-! SUPPORT. The register load and ALU instructions (42_load_alu.md R110 to R121). -/

namespace Sys2Proof.Machine

/-! ## One register written (R110 to R115, R121) -/

/-- Settles O26: each of the four is one register write, `x` = F and `x` = `y` no exception. -/
theorem loadsAndLogicalsWriteVxOnly : Obligations.LoadsAndLogicalsWriteVxOnly := fun s x y kk =>
  ⟨⟨encodedAs_row rfl, _, rfl, writesRegister_setReg s x kk⟩,
    ⟨encodedAs_row rfl, _, rfl, writesRegister_setReg s x (s.reg y)⟩,
    ⟨encodedAs_row rfl, _, rfl, writesRegister_setReg s x (s.reg x &&& s.reg y)⟩,
    encodedAs_row rfl, _, rfl, writesRegister_setReg s x (s.reg x ^^^ s.reg y)⟩

/-- Settles O27: `8xy1` is one register write. -/
theorem orWritesVxOnly : Obligations.OrWritesVxOnly := fun s x y =>
  ⟨_, rfl, writesRegister_setReg s x (s.reg x ||| s.reg y)⟩

theorem add_eq_ofNat_mod (a b : Byte) : a + b = BitVec.ofNat 8 ((a.toNat + b.toNat) % 256) :=
  BitVec.eq_of_toNat_eq (by simp)

/-- Settles O28: one register write, whose byte addition is the sum modulo 256. -/
theorem addImmediateWrapsWithoutFlag : Obligations.AddImmediateWrapsWithoutFlag := by
  refine fun s x kk => ⟨encodedAs_row rfl, _, rfl, ?_⟩
  rw [← add_eq_ofNat_mod]
  exact writesRegister_setReg s x (s.reg x + kk)

/-- Settles O33: one register write, of the port's byte masked. -/
theorem randomByteIsMasked : Obligations.RandomByteIsMasked := fun s x kk =>
  ⟨_, rfl, writesRegister_setReg s x (s.inputs.rand &&& kk)⟩

/-! ## A value and a flag written (R116 to R120) -/

section
variable {s : State} {x : RegNum} {b : Byte} {c : Bool} {n flag : Nat}

/-- A destination other than `VF` and the flag may be written in either order (R14). -/
theorem setReg_setFlag_comm (hx : x ≠ flagReg) : (s.setFlag c).setReg x b = (s.setReg x b).setFlag c := by
  have : flagReg.val ≠ x.val := fun h => hx (Fin.ext h.symm)
  simp only [State.setFlag, State.setReg]
  rw [Vector.set_comm _ _ this]

/-- A value and then a flag written change the two registers and nothing else. -/
theorem writesRegisterAndFlag_setReg_setFlag (hx : x ≠ flagReg) (hb : b.toNat = n)
    (hc : (flagByte c).toNat = flag) : WritesRegisterAndFlag s ((s.setReg x b).setFlag c) x n flag := by
  refine ⟨?value, ?flag, fun k hkx hkf => ?other, rfl, fun _ => rfl⟩
  case value => rw [State.setFlag, reg_setReg_other _ _ hx, reg_setReg_same, hb]
  case flag => rw [reg_setFlag_same, hc]
  case other => rw [State.setFlag, reg_setReg_other _ _ hkf, reg_setReg_other _ _ hkx]

/-- A flag writer that lists the value first (`8xy4 8xy5 8xy7`), its destination not `VF`. -/
theorem flagWriter_writes_value_flag (hx : x ≠ flagReg) (hb : b.toNat = n) (hc : (flagByte c).toNat = flag) :
    ∃ t, s.flagWriter x ((s.setReg x b).setFlag c) = .next t ∧ WritesRegisterAndFlag s t x n flag :=
  ⟨_, flagWriter_next _ (.inr hx), writesRegisterAndFlag_setReg_setFlag hx hb hc⟩

/-- A flag writer that lists the flag first (`8xy6 8xyE`), its destination not `VF`. -/
theorem flagWriter_writes_flag_value (hx : x ≠ flagReg) (hb : b.toNat = n) (hc : (flagByte c).toNat = flag) :
    ∃ t, s.flagWriter x ((s.setFlag c).setReg x b) = .next t ∧ WritesRegisterAndFlag s t x n flag := by
  rw [setReg_setFlag_comm hx]
  exact flagWriter_writes_value_flag hx hb hc

end

theorem carryOut_toNat (a b : Byte) :
    (flagByte (carryOut a b)).toNat = if 255 < a.toNat + b.toNat then 1 else 0 := by
  simp [carryOut]

theorem noBorrow_toNat (a b : Byte) : (flagByte (noBorrow a b)).toNat = if b.toNat ≤ a.toNat then 1 else 0 := by
  simp [noBorrow]

theorem sub_toNat_mod (a b : Byte) : (a - b).toNat = (a.toNat + 256 - b.toNat) % 256 := by
  have := b.isLt
  rw [BitVec.toNat_sub]
  omega

/-- The bit a right shift loses is the remainder of the halving. -/
theorem lostRight_toNat (a : Byte) : (flagByte (lostRight a)).toNat = a.toNat % 2 := by
  have := Nat.mod_two_eq_zero_or_one a.toNat
  simp only [flagByte_toNat, lostRight, BitVec.getLsbD, Nat.testBit_zero, decide_eq_true_eq]
  split <;> omega

/-- The bit a left shift loses is the quotient of the doubling by 256. -/
theorem lostLeft_toNat (a : Byte) : (flagByte (lostLeft a)).toNat = a.toNat / 128 := by
  have := a.isLt
  simp only [flagByte_toNat, lostLeft, BitVec.getLsbD, Nat.testBit_eq_decide_div_mod_eq, decide_eq_true_eq]
  split <;> omega

theorem shiftRight_one_toNat (a : Byte) : (a >>> 1).toNat = a.toNat / 2 := by
  have := a.isLt
  rw [shiftRight_one_eq_half, BitVec.toNat_ofNat]
  omega

theorem shiftLeft_one_toNat (a : Byte) : (a <<< 1).toNat = 2 * a.toNat % 256 := by
  rw [shiftLeft_one_eq_double, BitVec.toNat_ofNat, Nat.mod_mod]

/-- Settles O29: the sum is written first, then the carry of the old values. -/
theorem addSetsCarry : Obligations.AddSetsCarry := fun s x y hx =>
  flagWriter_writes_value_flag hx (BitVec.toNat_add ..) (carryOut_toNat (s.reg x) (s.reg y))

/-- Settles O30: the two subtractions are one lemma with the operands exchanged. -/
theorem subtractionsSetNoBorrow : Obligations.SubtractionsSetNoBorrow := fun s x y hx =>
  ⟨flagWriter_writes_value_flag hx (sub_toNat_mod (s.reg x) (s.reg y)) (noBorrow_toNat (s.reg x) (s.reg y)),
    flagWriter_writes_value_flag hx (sub_toNat_mod (s.reg y) (s.reg x)) (noBorrow_toNat (s.reg y) (s.reg x))⟩

/-- Settles O31: the lost bit is written first, then the shifted value; no `Vy` stands in either. -/
theorem shiftsReportTheLostBit : Obligations.ShiftsReportTheLostBit := fun s x _ hx =>
  ⟨flagWriter_writes_flag_value hx (shiftRight_one_toNat (s.reg x)) (lostRight_toNat (s.reg x)),
    flagWriter_writes_flag_value hx (shiftLeft_one_toNat (s.reg x)) (lostLeft_toNat (s.reg x))⟩

end Sys2Proof.Machine

/-! SUPPORT. The address-register and memory instructions (43_index_memory.md R130 to R136). -/

namespace Sys2Proof.Machine

/-! ## Writes to `I` (R130 to R132) -/

theorem setsI_setI (s : State) {w : Word} {n : Nat} (h : w.toNat = n) : SetsI s (s.setI w) n :=
  ⟨h, rfl, fun _ => rfl⟩

@[simp] theorem zextByte_toNat (b : Byte) : (zextByte b).toNat = b.toNat :=
  BitVec.toNat_setWidth_of_le (by decide)

/-- The sum of `Fx1E` wraps at 65536 (R131). -/
theorem add_zextByte_toNat (w : Word) (b : Byte) : (w + zextByte b).toNat = (w.toNat + b.toNat) % 65536 := by
  rw [BitVec.toNat_add, zextByte_toNat]

/-- Settles O34: `Annn` writes `I` alone, with the field widened. -/
theorem loadAddressSetsI : Obligations.LoadAddressSetsI := fun s nnn =>
  ⟨encodedAs_row rfl, _, rfl, setsI_setI s (zextAddr_toNat nnn)⟩

/-- Settles O35: `Fx1E` writes `I` alone, with the 16-bit sum. -/
theorem addToIWrapsAt65536 : Obligations.AddToIWrapsAt65536 := fun s x =>
  ⟨_, rfl, setsI_setI s (add_zextByte_toNat s.i (s.reg x))⟩

/-- Five times a register value does not wrap, a digit or not (R132). -/
theorem five_mul_toNat {d : Nat} (h : d < 256) : (BitVec.ofNat 16 (5 * d)).toNat = 5 * d :=
  Nat.mod_eq_of_lt (by omega)

/-- The glyph set starts at address 0 (R132, D29). -/
theorem glyphAddress_eq (d : Nat) : glyphAddress d = BitVec.ofNat 16 (5 * d) :=
  congrArg (BitVec.ofNat 16) (Nat.zero_add _)

section
variable {s : State} {x : RegNum} {b : Byte}

theorem glyphOperand_digit (policy : GlyphIdPolicy) (h : b.toNat ≤ 15) :
    glyphOperand policy b = some (glyphAddress b.toNat) :=
  if_pos h

theorem glyphOperand_fault (h : 15 < b.toNat) : glyphOperand .fault b = none :=
  if_neg (by omega)

theorem glyphOperand_mask4 (h : 15 < b.toNat) : glyphOperand .mask4 b = some (glyphAddress (b.toNat % 16)) :=
  if_neg (by omega)

theorem glyphOperand_times5 (h : 15 < b.toNat) : glyphOperand .times5 b = some (BitVec.ofNat 16 (5 * b.toNat)) :=
  if_neg (by omega)

/-- Where the policy gives five times `d`, `Fx29` sets `I` to it. -/
theorem setsI_pointAtGlyph {d : Nat} (hd : d < 256)
    (h : glyphOperand s.params.glyphId (s.reg x) = some (BitVec.ofNat 16 (5 * d))) :
    SetsI s (s.pointAtGlyph x) (5 * d) := by
  rw [State.pointAtGlyph, h]
  exact setsI_setI s (five_mul_toNat hd)

/-- Where the policy gives no address, `Fx29` only takes its fault. -/
theorem raisesOnly_pointAtGlyph (h : glyphOperand s.params.glyphId (s.reg x) = none) :
    RaisesOnly s (s.pointAtGlyph x) (.glyphIndexOutOfRange (s.reg x)) := by
  rw [State.pointAtGlyph, h]
  exact raisesOnly_raise s _

end

/-- Settles O36: the four clauses are the four answers of the policy. -/
theorem glyphAddressIsFiveTimesTheDigit : Obligations.GlyphAddressIsFiveTimesTheDigit := by
  intro s x
  have hlt := (s.reg x).isLt
  refine ⟨fun h => ⟨_, rfl, ?digit⟩, fun h =>
    ⟨fun hp => ⟨_, rfl, ?fault⟩, fun hp => ⟨_, rfl, ?mask4⟩, fun hp => ⟨_, rfl, ?times5⟩⟩⟩
  case digit => exact setsI_pointAtGlyph hlt (by rw [glyphOperand_digit _ h, glyphAddress_eq])
  case fault => exact raisesOnly_pointAtGlyph (by rw [hp, glyphOperand_fault h])
  case mask4 => exact setsI_pointAtGlyph (by omega) (by rw [hp, glyphOperand_mask4 h, glyphAddress_eq])
  case times5 => exact setsI_pointAtGlyph hlt (by rw [hp, glyphOperand_times5 h])

/-! ## Stores (R133, R134) -/

/-- A storing instruction in range leaves its bytes at `I` and up, and every other byte and cell as before. -/
theorem storeAtI_of_inRange {s : State} {bs : List Byte} {n : Nat} (hwf : s.memory.wf = true)
    (hr : s.i.toNat + n ≤ 4096) (hlen : bs.length = n) :
    ∃ t, (.next (s.withData n (s.storeAtI bs)) : Host.Outcome State Fault Refusal) = .next t ∧
      (∀ {k b}, bs[k]? = some b → t.memory.read (s.i.toNat + k) = b) ∧
      SameBytesOutside s t s.i.toNat n ∧ t = { s with memory := t.memory } := by
  subst hlen
  refine ⟨s.storeAtI bs, by rw [withData_inRange _ (.inr hr)], fun hk => ?stored,
    fun k hk => Memory.read_writeBytes_outside hwf hr hk, rfl⟩
  case stored =>
    obtain ⟨hlt, rfl⟩ := List.getElem?_eq_some_iff.1 hk
    exact Memory.read_writeBytes_at hwf hr hlt

theorem decimalDigit_toNat (b : Byte) (k : Nat) : (decimalDigit b k).toNat = b.toNat / 10 ^ (2 - k) % 10 :=
  Nat.mod_eq_of_lt ((Nat.mod_lt _ (by decide)).trans (by decide))

/-- Settles O37: digit `k` of `Vx` is stored at `I + k`; a byte has at most two hundreds. -/
theorem decimalDigitsAreStored : Obligations.DecimalDigitsAreStored := by
  intro s x hwf hr
  obtain ⟨t, ht, hstored, hframe⟩ := storeAtI_of_inRange hwf (by omega) (length_decimalDigits (s.reg x))
  have hdigit {k : Nat} (hk : k < 3) :
      (t.memory.read (s.i.toNat + k)).toNat = (s.reg x).toNat / 10 ^ (2 - k) % 10 := by
    rw [hstored (getElem?_decimalDigits _ hk), decimalDigit_toNat]
  have hhundreds : (s.reg x).toNat / 100 % 10 = (s.reg x).toNat / 100 := by
    have := (s.reg x).isLt
    omega
  refine ⟨t, ht, (hdigit (k := 0) (by decide)).trans hhundreds, hdigit (k := 1) (by decide), ?ones, hframe⟩
  case ones => simpa using hdigit (k := 2) (by decide)

/-- Settles O38: byte `k` of those stored is `Vk`. -/
theorem registersAreStored : Obligations.RegistersAreStored := by
  intro s x hwf hr
  obtain ⟨t, ht, hstored, hframe⟩ := storeAtI_of_inRange hwf (by omega) (length_regsUpTo s x)
  exact ⟨t, ht, fun k hk => hstored (getElem?_regsUpTo s x k hk), hframe⟩

/-! ## Loads (R135) -/

/-- A load of `n` bytes fills the registers below `n` and keeps the others. -/
theorem reg_setRegs_loadAtI (s : State) (n : Nat) (k : RegNum) :
    (s.setRegs (s.loadAtI n)).reg k = if k.val < n then s.memory.read (s.i.toNat + k.val) else s.reg k := by
  rw [reg_setRegs, State.loadAtI, Memory.getElem?_readBytes]
  split <;> rfl

/-- Settles O39: in range `Fx65` loads `x + 1` bytes. -/
theorem registersAreLoaded : Obligations.RegistersAreLoaded := by
  intro s x hr
  refine ⟨s.setRegs (s.loadAtI (x.val + 1)), ?runs, fun k hk => ?loaded, fun k hk => ?kept, rfl, fun _ => rfl⟩
  case runs => exact congrArg Host.Outcome.next (withData_inRange _ (.inr (by omega)))
  case loaded => rw [reg_setRegs_loadAtI, if_pos (Nat.lt_succ_of_le hk)]
  case kept => rw [reg_setRegs_loadAtI, if_neg (Nat.not_lt.2 hk)]

/-- Settles O41: the load reads the bytes the store wrote, since the store kept `I`. -/
theorem storeThenLoadRestoresRegisters : Obligations.StoreThenLoadRestoresRegisters := by
  intro s t u x hwf hr hstore hmemory hi
  obtain ⟨t', hstore', hstored, -, hframe⟩ := registersAreStored s x hwf hr
  obtain rfl : t' = t := Host.Outcome.next.inj (hstore'.symm.trans hstore)
  have hui : u.i = s.i := hi.trans (by rw [hframe])
  obtain ⟨r, hload, hloaded, hkept, -⟩ := registersAreLoaded u x (hui ▸ hr)
  refine ⟨r, hload, fun k hk => ?restored, hkept⟩
  case restored => rw [hloaded k hk, hui, hmemory, hstored k hk]

end Sys2Proof.Machine

/-! SUPPORT. The display instructions and the redraw output (44_display.md R140 to R144). -/

namespace Sys2Proof.Machine

/-- Settles O43: the blank screen is the one cell written. -/
theorem clearScreenClearsEveryCell : Obligations.ClearScreenClearsEveryCell := fun _ =>
  ⟨encodedAs_row rfl, _, rfl, cell_blank, rfl, fun _ => rfl⟩

/-! ## One draw (R141 to R143) -/

/-- The cells hit by the rows read at `I` are the covered ones (R142). -/
theorem mem_spriteHits_loadAtI {s : State} {px py n : Nat} {k : Fin 2048} :
    k ∈ spriteHits px py (s.loadAtI n) ↔ SpriteCovers s px py n k := by
  rw [mem_spriteHits]
  refine exists_congr fun r => exists_congr fun c => ?_
  simp only [State.loadAtI, Memory.getElem?_readBytes, spriteBit, Fin.ext_iff, cellOf]
  constructor
  · rintro ⟨b, hb, hc, hbit, hk⟩
    obtain ⟨hr, ⟨⟩⟩ := Option.ite_none_right_eq_some.1 hb
    exact ⟨hr, hc, hbit, hk⟩
  · rintro ⟨hr, hc, hbit, hk⟩
    exact ⟨_, if_pos hr, hc, hbit, hk⟩

section
variable {s : State} {px py : Byte} {n : Nat} {k : Fin 2048} (hn : n ≤ 15)
include hn

/-- A draw toggles a cell exactly when some set sprite bit hits it. -/
theorem pixel_drawSprite : (s.drawSprite px py (s.loadAtI n)).pixel k =
    (s.pixel k ^^ decide (k ∈ spriteHits px.toNat py.toNat (s.loadAtI n))) :=
  cell_blitRows _ _ _ (by rw [length_loadAtI]; omega) _ k

theorem pixel_drawSprite_covered (h : SpriteCovers s px.toNat py.toNat n k) :
    (s.drawSprite px py (s.loadAtI n)).pixel k = !s.pixel k := by
  rw [pixel_drawSprite hn, decide_eq_true (mem_spriteHits_loadAtI.2 h), Bool.xor_true]

theorem pixel_drawSprite_uncovered (h : ¬ SpriteCovers s px.toNat py.toNat n k) :
    (s.drawSprite px py (s.loadAtI n)).pixel k = s.pixel k := by
  rw [pixel_drawSprite hn, decide_eq_false (mt mem_spriteHits_loadAtI.1 h), Bool.xor_false]

/-- `VF` after a draw tells whether some cell hit was set before it. -/
theorem flag_drawSprite : (s.drawSprite px py (s.loadAtI n)).reg flagReg =
    flagByte ((spriteHits px.toNat py.toNat (s.loadAtI n)).any s.pixel) := by
  rw [reg_drawSprite_flag, collision_blitRows _ _ _ (by rw [length_loadAtI]; omega), Bool.false_or]
  rfl

theorem flag_drawSprite_collision (h : SpriteCovers s px.toNat py.toNat n k) (hk : s.pixel k = true) :
    (s.drawSprite px py (s.loadAtI n)).reg flagReg = 1 := by
  rw [flag_drawSprite hn, List.any_eq_true.2 ⟨k, mem_spriteHits_loadAtI.2 h, hk⟩]
  rfl

theorem flag_drawSprite_clear (h : ∀ k, SpriteCovers s px.toNat py.toNat n k → s.pixel k = false) :
    (s.drawSprite px py (s.loadAtI n)).reg flagReg = 0 := by
  have hany : (spriteHits px.toNat py.toNat (s.loadAtI n)).any s.pixel = false :=
    List.any_eq_false.2 fun k hk => Bool.eq_false_iff.1 (h k (mem_spriteHits_loadAtI.1 hk))
  rw [flag_drawSprite hn, hany]
  rfl

end

/-- Settles O44: in range `Dxyn` draws the rows read at `I`. -/
theorem drawInvertsTheCoveredCells : Obligations.DrawInvertsTheCoveredCells := by
  intro s x y n hn hr
  refine ⟨s.drawSprite (s.reg x) (s.reg y) (s.loadAtI n), ?runs, fun k => pixel_drawSprite_covered hn,
    fun k => pixel_drawSprite_uncovered hn, fun ⟨k, hk, hset⟩ => flag_drawSprite_collision hn hk hset,
    flag_drawSprite_clear hn, fun k => reg_drawSprite_other s _ _ _, rfl, rfl, fun _ => rfl⟩
  case runs => exact congrArg Host.Outcome.next (withData_inRange _ (by omega))

/-! ## Two draws at the same place (R143) -/

/-- Which cells a sprite covers depends on `memory` and `I` alone. -/
theorem spriteCovers_congr {s t : State} (hmemory : t.memory = s.memory) (hi : t.i = s.i) {px py n : Nat}
    {k : Fin 2048} : SpriteCovers t px py n k ↔ SpriteCovers s px py n k := by
  simp only [SpriteCovers, hmemory, hi]

/-- Settles O45: the second draw covers the same cells, so it inverts each of them back. -/
theorem drawingTwiceRestoresTheScreen : Obligations.DrawingTwiceRestoresTheScreen := by
  intro s t x y n hn hr hx hy hfirst
  obtain ⟨t', hfirst', hinv, hkeep, -, -, hreg, -, hframe, -⟩ := drawInvertsTheCoveredCells s x y n hn hr
  obtain rfl : t' = t := Host.Outcome.next.inj (hfirst'.symm.trans hfirst)
  have hi : t'.i = s.i := by rw [hframe]
  have hcovers {px py k} : SpriteCovers t' px py n k ↔ SpriteCovers s px py n k :=
    spriteCovers_congr (by rw [hframe]) hi
  obtain ⟨u, hsecond, hinv', hkeep', hcollision, -⟩ := drawInvertsTheCoveredCells t' x y n hn (hi ▸ hr)
  simp only [hreg x hx, hreg y hy, hcovers] at hinv' hkeep' hcollision
  refine ⟨u, hsecond, Screen.ext_cell fun k => ?_, fun ⟨k, hk⟩ hclear => hcollision ⟨k, hk, ?_⟩⟩
  · change u.pixel k = s.pixel k
    by_cases hk : SpriteCovers s (s.reg x).toNat (s.reg y).toNat n k
    · rw [hinv' k hk, hinv k hk, Bool.not_not]
    · rw [hkeep' k hk, hkeep k hk]
  · rw [hinv k hk, hclear k hk, Bool.not_false]

/-! ## The redraw output (R144) -/

/-- The machine runs, its fetch lies in memory and reads a `Dxyn`, and the sprite bytes lie in memory (R46, R47). -/
def State.CompletesDraw (s : State) : Prop :=
  ∃ x y n, s.mode = .running ∧ s.ip.toNat ≤ 4094 ∧
    decodeWord s.params.strictLowNibble s.fetchWord = .ok (.drw x y n) ∧ (n = 0 ∨ s.i.toNat + n - 1 ≤ 4095)

/-- `Dxyn` asks for a redraw exactly when it does not fault. -/
theorem execDrw_drawReq {s t : State} {x y : RegNum} {n : Nat} (hs : s.drawReq = false)
    (h : exec (.drw x y n) s = .next t) : t.drawReq = true ↔ n = 0 ∨ s.i.toNat + n - 1 ≤ 4095 := by
  cases h
  rcases withData_cases s n (s.drawSprite (s.reg x) (s.reg y) (s.loadAtI n)) with ⟨hr, e⟩ | ⟨hn, hr, e⟩ <;> rw [e]
  · exact iff_of_true rfl (by omega)
  · exact iff_of_false (by simp [hs]) (by omega)

/-- Of the kinds of effect only a drawing raises the redraw output. -/
theorem exists_drw_of_drawReq {i : Instr} {s t : State} (hs : s.drawReq = false) (h : exec i s = .next t)
    (ht : t.drawReq = true) : ∃ x y n, i = .drw x y n := by
  cases exec_effect h with
  | draws x y n => exact ⟨x, y, n, rfl⟩
  | raises | registers | movesIp | pushes | pops | setsI | setsDelay | setsSound | stores | clears =>
    exact absurd (hs.symm.trans ht) Bool.false_ne_true

/-- A Cycle that begins with the pulse low leaves it high exactly when it completes a draw. -/
theorem cycle_drawReq {s t : State} {input : CycleInput} (hs : s.drawReq = false) (h : s.cycle input = .next t) :
    t.drawReq = true ↔ s.CompletesDraw := by
  have hs' : State.drawReq { s.fetched with inputs := input } = false := hs
  constructor
  · intro ht
    rcases cycle_cases h with ⟨-, rfl⟩ | ⟨-, -, rfl⟩ | ⟨-, -, -, rfl⟩ | ⟨hm, hip, i, hd, he⟩
    case inr.inr.inr =>
      obtain ⟨x, y, n, rfl⟩ := exists_drw_of_drawReq hs' he ht
      exact ⟨x, y, n, hm, hip, hd, (execDrw_drawReq hs' he).1 ht⟩
    all_goals exact absurd (hs.symm.trans ht) Bool.false_ne_true
  · rintro ⟨x, y, n, hm, hip, hd, hr⟩
    exact (execDrw_drawReq hs' ((cycle_runs input hm hip hd).symm.trans h)).2 hr

/-- A Load leaves the redraw output low. -/
theorem loadRom_drawReq {s : State} (hs : s.drawReq = false) (rom : List Byte) : (s.loadRom rom).drawReq = false := by
  unfold State.loadRom
  split
  · exact hs
  · rfl

/-- Every event ends the pulse of the one before; only a Cycle raises it again. -/
theorem serve_drawReq {s t : State} {e : Event} (h : s.serve e = .next t) :
    t.drawReq = true ↔ (∃ input, e = .cycle input) ∧ s.CompletesDraw := by
  have hlow : s.clearOutputs.drawReq = false := rfl
  rcases serve_cases h with ⟨rfl, rfl⟩ | ⟨rom, rfl, ht⟩ | ⟨input, rfl, -, hc⟩ |
    ⟨rfl, -, rfl⟩ | ⟨rfl, -, rfl⟩ | ⟨rfl, -, rfl⟩
  case inr.inl => simp [ht, loadRom_drawReq hlow]
  case inr.inr.inl => exact (cycle_drawReq hlow hc).trans (and_iff_right ⟨input, rfl⟩).symm
  all_goals simp

/-- Taking the event off the queue leaves everything the next Cycle reads. -/
theorem popped_completesDraw (s : State) : s.popped.CompletesDraw ↔ s.CompletesDraw := by
  rw [popped_eq]
  exact Iff.rfl

/-- Settles O46: a step serves the next event of a state that completes a draw exactly when `s` does. -/
theorem redrawExactlyAfterACompletedDraw : Obligations.RedrawExactlyAfterACompletedDraw := by
  intro s t h
  rw [serve_drawReq h, popped_completesDraw]
  exact ⟨fun ⟨⟨input, he⟩, x, y, n, hdraw⟩ => ⟨input, x, y, n, he, hdraw⟩,
    fun ⟨input, x, y, n, he, hdraw⟩ => ⟨⟨input, he⟩, x, y, n, hdraw⟩⟩

end Sys2Proof.Machine

/-! SUPPORT. The keypad instructions (45_keypad.md R150 to R153), and which instructions the inputs of a Cycle reach
(R150, 60_exceptions.md R187). -/

namespace Sys2Proof.Machine

/-! ## The key skips (R151, R152) -/

section
variable {s : State} {x : RegNum} {keys : BitVec 16} {b : Byte}

theorem keyPressed_number (policy : KeyIdPolicy) (h : b.toNat ≤ 15) :
    keyPressed policy keys b = some (keys.getLsbD b.toNat) :=
  if_pos h

theorem keyPressed_fault (h : 15 < b.toNat) : keyPressed .fault keys b = none :=
  if_neg (by omega)

theorem keyPressed_mask4 (h : 15 < b.toNat) : keyPressed .mask4 keys b = some (keys.getLsbD (b.toNat % 16)) :=
  if_neg (by omega)

theorem keyPressed_notPressed (h : 15 < b.toNat) : keyPressed .notPressed keys b = some false :=
  if_neg (by omega)

/-- Where the policy answers `p`, `Ex9E` skips exactly when `p` holds and `ExA1` exactly when it does not. -/
theorem keySkips_of_keyPressed {p : Bool} (h : keyPressed s.params.keyId s.inputs.keys (s.reg x) = some p) :
    (∃ t, exec (.skp x) s = .next t ∧ MovesIp s t (if p then (s.ip.toNat + 2) % 65536 else s.ip.toNat)) ∧
      (∃ t, exec (.sknp x) s = .next t ∧ MovesIp s t (if p then s.ip.toNat else (s.ip.toNat + 2) % 65536)) := by
  have hskip (wanted : Bool) : s.skipOnKey x wanted = s.skipIf (p == wanted) := by rw [State.skipOnKey, h]
  refine ⟨⟨_, congrArg Host.Outcome.next (hskip true), ?down⟩, _, congrArg Host.Outcome.next (hskip false), ?up⟩
  case down | up => cases p <;> exact movesIp_skipIf s _

/-- Where the policy gives no answer, a key skip only takes its fault. -/
theorem raisesOnly_skipOnKey (wanted : Bool) (h : keyPressed s.params.keyId s.inputs.keys (s.reg x) = none) :
    RaisesOnly s (s.skipOnKey x wanted) (.keyIndexOutOfRange (s.reg x)) := by
  rw [State.skipOnKey, h]
  exact raisesOnly_raise s _

end

/-- Settles O47: a number up to 15 names its key under every policy. -/
theorem keySkipsFollowTheKeyState : Obligations.KeySkipsFollowTheKeyState := fun _ _ h =>
  keySkips_of_keyPressed (keyPressed_number _ h)

/-- Settles O48: the three clauses are the three answers of the policy. -/
theorem keyNumberPolicyDecides : Obligations.KeyNumberPolicyDecides := by
  refine fun s x h => ⟨fun hp => ?fault, fun hp => ?mask4, fun hp => ?notPressed⟩
  case fault =>
    have hnone : keyPressed s.params.keyId s.inputs.keys (s.reg x) = none := by rw [hp, keyPressed_fault h]
    exact ⟨⟨_, rfl, raisesOnly_skipOnKey true hnone⟩, _, rfl, raisesOnly_skipOnKey false hnone⟩
  case mask4 => exact keySkips_of_keyPressed (by rw [hp, keyPressed_mask4 h])
  case notPressed => exact keySkips_of_keyPressed (p := false) (by rw [hp, keyPressed_notPressed h])

/-! ## The key wait (R153, D12) -/

/-- The pressed keys are listed in rising order. -/
theorem pressedKeys_sorted (keys : BitVec 16) : (pressedKeys keys).Pairwise (· < ·) :=
  List.Pairwise.filter _ (by decide : keyNumbers.Pairwise (· < ·))

theorem pickKey_lowest (pick : Nat) (ks : List (Fin 16)) : pickKey .lowest pick ks = ks.head? := by
  match ks with
  | [] | [_] | _ :: _ :: _ => rfl

theorem pickKey_any (pick : Nat) (ks : List (Fin 16)) : pickKey .any pick ks = ks[pick % ks.length]? := by
  match ks with
  | [] | _ :: _ :: _ => rfl
  | [_] => simp [pickKey, Nat.mod_one]

/-- Under `KEY_PICK = lowest` no key below the one taken is down. -/
theorem up_of_lt_pickKey_lowest {keys : BitVec 16} {pick : Nat} {j k : Fin 16}
    (h : pickKey .lowest pick (pressedKeys keys) = some k) (hj : j < k) : keys.getLsbD j.val = false := by
  rw [pickKey_lowest, List.head?_eq_some_iff] at h
  obtain ⟨ks, hks⟩ := h
  have hmin : ∀ j' ∈ ks, k < j' := (List.pairwise_cons.1 (hks ▸ pressedKeys_sorted keys)).1
  rw [← Bool.not_eq_true, ← mem_pressedKeys, hks, List.mem_cons]
  rintro (rfl | hmem)
  · exact lt_irrefl j hj
  · exact lt_asymm hj (hmin j hmem)

/-- Under `KEY_PICK = any` every pressed key is the answer for some draw. -/
theorem exists_pick_of_pressed {keys : BitVec 16} {k : Fin 16} (h : keys.getLsbD k.val = true) :
    ∃ pick, pickKey .any pick (pressedKeys keys) = some k := by
  obtain ⟨pick, hlt, hk⟩ := List.mem_iff_getElem.1 ((mem_pressedKeys keys k).2 h)
  exact ⟨pick, by rw [pickKey_any, Nat.mod_eq_of_lt hlt, List.getElem?_eq_getElem hlt, hk]⟩

section
variable {s : State}

theorem takeKey_of_pickKey (x : RegNum) {k : Fin 16}
    (h : pickKey s.params.keyPick s.inputs.pick (pressedKeys s.inputs.keys) = some k) :
    s.takeKey x = s.setReg x (BitVec.ofNat 8 k.val) := by
  rw [State.takeKey, h]

theorem takeKey_of_no_key (x : RegNum) (h : s.inputs.keys = 0) : s.takeKey x = s.setIp (s.ip - 2) := by
  rcases takeKey_cases s x with ⟨-, e⟩ | ⟨k, hk, -⟩
  · exact e
  · simp [h] at hk

end

/-- Settles O49: with a key down the wait ends in one register write, of the key `KEY_PICK` names. -/
theorem waitEndsWithAPressedKey : Obligations.WaitEndsWithAPressedKey := by
  refine fun s x hkeys => ⟨?taken, fun hany k hk => ?reached⟩
  case taken =>
    obtain ⟨h, -⟩ | ⟨k, hk, hpick, htake⟩ := takeKey_cases s x
    · exact absurd h hkeys
    · refine ⟨_, k, congrArg Host.Outcome.next htake, hk, writesRegister_setReg s x _, fun hlow j hj => ?_⟩
      exact up_of_lt_pickKey_lowest (hlow ▸ hpick) hj
  case reached =>
    obtain ⟨pick, hpick⟩ := exists_pick_of_pressed hk
    have htake := takeKey_of_pickKey (s := s.withKeys s.inputs.keys pick) x (hany ▸ hpick)
    exact ⟨pick, _, congrArg Host.Outcome.next htake, reg_setReg_same ..⟩

/-- Settles O50: with no key down `Fx0A` takes back the advance its own fetch made. -/
theorem waitingCycleRepeats : Obligations.WaitingCycleRepeats := by
  intro s x input rest hfault hmode hip hpending hw hkeys
  have hd : decodeWord s.params.strictLowNibble s.fetchWord = .ok (.ldVxK x) := hw ▸ decodeOfEncode _ _ rfl
  rw [(stepRunsTheDecodedInstruction s _ hfault hmode hip hd).1 input rest hpending, ← hw, exec_ldVxK, execLdVxK,
    takeKey_of_no_key x hkeys, State.setIp, BitVec.add_sub_cancel]
  rfl

/-! ## Which instructions the inputs reach (R150, R187) -/

/-- The state with its inputs changed by `f`: the common form of `State.withRand` and `State.withKeys`. -/
def State.withInputs (s : State) (f : CycleInput → CycleInput) : State := { s with inputs := f s.inputs }

section
variable (s : State) (f : CycleInput → CycleInput)

theorem withRand_eq_withInputs (b : Byte) : s.withRand b = s.withInputs fun c => { c with rand := b } := rfl

theorem withKeys_eq_withInputs (keys : BitVec 16) (pick : Nat) :
    s.withKeys keys pick = s.withInputs fun c => { c with keys := keys, pick := pick } := rfl

@[simp] theorem withInputs_inputs : (s.withInputs f).inputs = f s.inputs := rfl

@[simp] theorem withInputs_params : (s.withInputs f).params = s.params := rfl

@[simp] theorem reg_withInputs (x : RegNum) : (s.withInputs f).reg x = s.reg x := rfl

/-! The shared operations commute with the change: the checks they make read no input. -/

theorem callTo_withInputs (target : Word) : (s.withInputs f).callTo target = (s.callTo target).withInputs f := by
  rcases callTo_cases s target with ⟨h, e⟩ | ⟨h, e⟩ <;> rw [e]
  · exact callTo_of_room (s := s.withInputs f) target h
  · exact callTo_full (s := s.withInputs f) target h

theorem returnFromCall_withInputs : (s.withInputs f).returnFromCall = s.returnFromCall.withInputs f := by
  rcases returnFromCall_cases s with ⟨h, e⟩ | ⟨h, e⟩ <;> rw [e]
  · exact returnFromCall_of_pos (s := s.withInputs f) h
  · exact returnFromCall_empty (s := s.withInputs f) h

theorem withData_withInputs (count : Nat) {body body' : State} (hbody : body' = body.withInputs f) :
    (s.withInputs f).withData count body' = (s.withData count body).withInputs f := by
  rcases withData_cases s count body with ⟨h, e⟩ | ⟨hc, h, e⟩ <;> rw [e]
  · exact (withData_inRange (s := s.withInputs f) body' h).trans hbody
  · exact withData_outOfRange (s := s.withInputs f) body' hc h

theorem flagWriter_withInputs (x : RegNum) {body body' : State} (hbody : body' = body.withInputs f) :
    (s.withInputs f).flagWriter x body' = mapNext (fun t => t.withInputs f) (s.flagWriter x body) := by
  subst hbody
  rw [State.flagWriter, State.flagWriter, apply_ite (mapNext _)]
  rfl

theorem pointAtGlyph_withInputs (x : RegNum) :
    (s.withInputs f).pointAtGlyph x = (s.pointAtGlyph x).withInputs f := by
  simp only [State.pointAtGlyph, withInputs_params, reg_withInputs]
  split <;> rfl

variable {s f}

/-- A key skip reads the key state and no other input. -/
theorem skipOnKey_withInputs (hkeys : (f s.inputs).keys = s.inputs.keys) (x : RegNum) (wanted : Bool) :
    (s.withInputs f).skipOnKey x wanted = (s.skipOnKey x wanted).withInputs f := by
  simp only [State.skipOnKey, withInputs_params, withInputs_inputs, reg_withInputs, hkeys]
  split <;> rfl

/-- The key wait reads the key state, the draw and no other input. -/
theorem takeKey_withInputs (hkeys : (f s.inputs).keys = s.inputs.keys) (hpick : (f s.inputs).pick = s.inputs.pick)
    (x : RegNum) : (s.withInputs f).takeKey x = (s.takeKey x).withInputs f := by
  simp only [State.takeKey, withInputs_params, withInputs_inputs, hkeys, hpick]
  split <;> rfl

/-- An instruction commutes with a change of the inputs it does not read: only `Cxkk` reads the random byte, only
`Ex9E`, `ExA1` and `Fx0A` the key state and the draw. -/
theorem exec_withInputs {i : Instr} (hrand : (∀ x kk, i ≠ .rnd x kk) ∨ (f s.inputs).rand = s.inputs.rand)
    (hkeys : ((∀ x, i ≠ .skp x) ∧ (∀ x, i ≠ .sknp x) ∧ ∀ x, i ≠ .ldVxK x) ∨
      (f s.inputs).keys = s.inputs.keys ∧ (f s.inputs).pick = s.inputs.pick) :
    exec i (s.withInputs f) = mapNext (fun t => t.withInputs f) (exec i s) := by
  cases i with
  | cls | jp | jpV0 | seImm | sneImm | seReg | sneReg | ldImm | addImm | ldReg | orReg | andReg | xorReg | ldI
  | ldVxDT | ldDTVx | ldSTVx | addIVx => rfl
  | ret => exact congrArg Host.Outcome.next (returnFromCall_withInputs s f)
  | call nnn => exact congrArg Host.Outcome.next (callTo_withInputs s f _)
  | addReg x | subReg x | shr x | subnReg x | shl x => exact flagWriter_withInputs s f x rfl
  | ldFVx x => exact congrArg Host.Outcome.next (pointAtGlyph_withInputs s f x)
  | drw | ldBVx | ldMemVx | ldVxMem => exact congrArg Host.Outcome.next (withData_withInputs s f _ rfl)
  | rnd x kk =>
    have hr := hrand.resolve_left fun h => h x kk rfl
    exact congrArg (fun r => Host.Outcome.next ((s.setReg x (r &&& kk)).withInputs f)) hr
  | skp x =>
    obtain ⟨hk, -⟩ := hkeys.resolve_left fun ⟨h, _⟩ => h x rfl
    exact congrArg Host.Outcome.next (skipOnKey_withInputs hk x true)
  | sknp x =>
    obtain ⟨hk, -⟩ := hkeys.resolve_left fun ⟨_, h, _⟩ => h x rfl
    exact congrArg Host.Outcome.next (skipOnKey_withInputs hk x false)
  | ldVxK x =>
    obtain ⟨hk, hp⟩ := hkeys.resolve_left fun ⟨_, _, h⟩ => h x rfl
    exact congrArg Host.Outcome.next (takeKey_withInputs hk hp x)

end

/-- Settles O58: another random byte is a change of inputs that keeps the keys and the draw, other keys and another
draw one that keeps the random byte. -/
theorem inputsReachOnlyTheirInstructions : Obligations.InputsReachOnlyTheirInstructions := by
  refine fun i s => ⟨fun b hrnd => ?rand, fun keys pick hskp hsknp hwait => ?keys⟩
  case rand =>
    simp only [withRand_eq_withInputs]
    exact exec_withInputs (.inl hrnd) (.inr ⟨rfl, rfl⟩)
  case keys =>
    simp only [withKeys_eq_withInputs]
    exact exec_withInputs (.inr rfl) (.inl ⟨hskp, hsknp, hwait⟩)

end Sys2Proof.Machine

/-! SUPPORT. The timers (46_timers.md R160 to R164). -/

namespace Sys2Proof.Machine

/-! ## The Tick (R163, R164) -/

/-- One step of a timer takes one from its count, which stops at 0 (R163). -/
theorem countDown_toNat (b : Byte) : (countDown b).toNat = b.toNat - 1 := by
  unfold countDown
  split
  case isTrue h => rw [h]; rfl
  case isFalse h =>
    have hpos : b.toNat ≠ 0 := BitVec.toNat_ne.1 h
    exact BitVec.toNat_sub_of_le (Nat.one_le_iff_ne_zero.2 hpos)

/-- Settles O11: each timer counts down on its own. -/
theorem tickDecrementsBothTimers : Obligations.TickDecrementsBothTimers := fun s _ hfault hpending =>
  ⟨_, step_tick hfault hpending, countDown_toNat s.delay, countDown_toNat s.sound, rfl⟩

/-- `k` pending Ticks are served in `k` steps and take `k` from each timer, which stops at 0. -/
theorem run_ticks {s : State} {k : Nat} {rest : List Event} (hfault : s.fault = none)
    (hpending : s.pending = List.replicate k .tick ++ rest) :
    ∃ t : State, core.run k s = .next t ∧ t.delay.toNat = s.delay.toNat - k ∧ t.sound.toNat = s.sound.toNat - k ∧
      t.pending = rest := by
  induction k generalizing s with
  | zero => exact ⟨s, rfl, rfl, rfl, hpending⟩
  | succ k ih =>
    obtain ⟨u, hstep, hdelay, hsound, hu⟩ := tickDecrementsBothTimers s _ hfault hpending
    obtain ⟨t, hrun, htdelay, htsound, hrest⟩ := ih ((congrArg State.fault hu).trans hfault) (congrArg State.pending hu)
    refine ⟨t, (core_run_succ k hstep).trans hrun, ?delay, ?sound, hrest⟩
    case delay => omega
    case sound => omega

/-- Settles O12: the count left after `k` Ticks is 0 exactly when `k` is at least the count at first. -/
theorem timerReachesZeroAfterItsCount : Obligations.TimerReachesZeroAfterItsCount := by
  intro s k rest hfault hpending
  obtain ⟨t, hrun, hdelay, hsound, hrest⟩ := run_ticks hfault hpending
  refine ⟨t, hrun, hdelay, hsound, hrest, ?_⟩
  calc t.delay = 0
    _ ↔ t.delay.toNat = 0 := BitVec.toNat_eq
    _ ↔ s.delay.toNat ≤ k := by rw [hdelay, Nat.sub_eq_zero_iff_le]

/-! ## The timer instructions (R160 to R162) -/

/-- Settles O51: `Fx07` is one register write, `Fx15` one write of `delay`. -/
theorem delayTimerIsReadAndSet : Obligations.DelayTimerIsReadAndSet := fun s x =>
  ⟨⟨encodedAs_row rfl, _, rfl, writesRegister_setReg s x s.delay⟩,
    encodedAs_row rfl, _, rfl, State.setDelay_delay s (s.reg x), rfl, fun _ => rfl⟩

/-- Settles O52: `Fx18` is one write of `sound`. -/
theorem soundTimerIsSet : Obligations.SoundTimerIsSet := fun s x =>
  ⟨_, rfl, State.setSound_sound s (s.reg x), rfl, fun _ => rfl⟩

end Sys2Proof.Machine

/-! SUPPORT. The faults of the execute phase and of a Load (60_exceptions.md R171 to R178). -/

namespace Sys2Proof.Machine

/-! ## The execute phase (R172, R175) -/

/-- An instruction keeps the fault latch, or takes into it a fault it may raise and does nothing else. -/
theorem exec_fault_cases {i : Instr} {s t : State} (h : exec i s = .next t) :
    t.fault = s.fault ∨ ∃ r, mayRaise i r = true ∧ t = s.raise r := by
  cases exec_effect h with
  | raises listed => exact .inr ⟨_, listed, rfl⟩
  | registers | movesIp | pushes | pops | setsI | setsDelay | setsSound | stores | clears | draws => exact .inl rfl

/-- An instruction that leaves a record where there was none raised it, and it is one the instruction may raise. -/
theorem exec_raises {i : Instr} {s t : State} {r : FaultRecord} (hfault : s.fault = none) (h : exec i s = .next t)
    (hr : t.fault = some r) : mayRaise i r = true ∧ t = s.raise r := by
  obtain hkept | ⟨r', hlisted, rfl⟩ := exec_fault_cases h
  · rw [hkept, hfault] at hr
    cases hr
  · cases hr
    exact ⟨hlisted, rfl⟩

/-- Settles O56: the record left is one the instruction raised. -/
theorem faultsRaisedOnlyAsListed : Obligations.FaultsRaisedOnlyAsListed := fun _ _ _ _ hfault h hr =>
  (exec_raises hfault h hr).1

/-- Settles O57: the state left is the one before with the record raised. -/
theorem faultingInstructionChangesOnlyTheLatch : Obligations.FaultingInstructionChangesOnlyTheLatch := by
  intro i s t hfault h hne
  obtain ⟨r, hr⟩ := Option.ne_none_iff_exists'.1 hne
  obtain ⟨-, ht⟩ := exec_raises hfault h hr
  rw [hr]
  exact ht

/-! ## A Load that fails (R178) -/

/-- A Load of a ROM that does not fit reports the failure and does nothing else. -/
theorem loadRom_oversized (s : State) {rom : List Byte} (h : 4096 < rom.length + 0x200) :
    s.loadRom rom = { s with loadError := true } := if_pos h

/-- Settles O17: a Load is served whatever the latch holds, and one that does not fit only reports its failure. -/
theorem oversizedRomLeavesEveryCell : Obligations.OversizedRomLeavesEveryCell := fun _ _ _ hpending hsize =>
  (step_pending hpending).trans (congrArg Host.Outcome.next (loadRom_oversized _ hsize))

end Sys2Proof.Machine

/-! SUPPORT. The Load of a ROM that fits (70_reset_and_hazards.md R203 to R206). -/

namespace Sys2Proof.Machine

/-! ## The glyph set (R204) -/

/-- The glyph set is the vector of glyphs laid end to end. -/
theorem glyphSet_eq_flatten (p : Params) : glyphSet p = p.glyphs.flatten.toList := by
  have hflatten : p.glyphs.flatten.toList = ((p.glyphs.toArray.map Vector.toArray).toList.map Array.toList).flatten :=
    Array.toList_flatten
  rw [hflatten, Array.toList_map, List.map_map, ← List.flatMap_def]
  rfl

/-- Byte `j` of glyph `d` stands at `5 d + j` (D29). -/
theorem getElem?_glyphSet (p : Params) (d : Fin 16) (j : Fin 5) :
    (glyphSet p)[5 * d.val + j.val]? = some (p.glyphs[d])[j] := by
  have hlt : 5 * d.val + j.val < 16 * 5 := by omega
  have hdiv : (5 * d.val + j.val) / 5 = d.val := by omega
  have hmod : (5 * d.val + j.val) % 5 = j.val := by omega
  calc (glyphSet p)[5 * d.val + j.val]?
    _ = some p.glyphs.flatten[5 * d.val + j.val] := by simp [glyphSet_eq_flatten, hlt]
    _ = some (p.glyphs[d])[j] := by
      rw [Vector.getElem_flatten hlt]
      simp only [hdiv, hmod, Fin.getElem_fin]

/-! ## Memory after a Load (R203, R205) -/

/-- Below `PROGRAM_BASE` memory reads as the glyph set, from there up as the ROM, and 0 past the end of either. -/
theorem read_loadedMemory (p : Params) {rom : List Byte} (h : rom.length ≤ 3584) (a : Nat) :
    (loadedMemory p rom).read a = if 0x200 ≤ a then rom[a - 0x200]?.getD 0 else (glyphSet p)[a]?.getD 0 := by
  have hglyphs : Config.glyphBase + (glyphSet p).length ≤ Config.memSize := by rw [length_glyphSet]; decide
  have hrom : Config.programBase + rom.length ≤ Config.memSize := Nat.add_le_add_left h 0x200
  have hbelow : (Memory.writeBytes [] Config.glyphBase (glyphSet p)).read a = (glyphSet p)[a]?.getD 0 :=
    (Memory.read_writeBytes Memory.wf_nil hglyphs).trans (if_pos (Nat.zero_le a))
  rw [loadedMemory, Memory.read_writeBytes (Memory.wf_writeBytes Memory.wf_nil hglyphs) hrom, hbelow]
  refine ite_congr rfl (fun hle => ?_) fun _ => rfl
  have hpast : (glyphSet p).length ≤ a := by
    rw [length_glyphSet]
    exact Nat.le_trans (by decide) hle
  rw [List.getElem?_eq_none hpast]
  rfl

theorem read_loadedMemory_glyph (p : Params) {rom : List Byte} (h : rom.length ≤ 3584) (d : Fin 16) (j : Fin 5) :
    (loadedMemory p rom).read (5 * d.val + j.val) = (p.glyphs[d])[j] := by
  have hbelow : ¬ 0x200 ≤ 5 * d.val + j.val := by omega
  rw [read_loadedMemory p h, if_neg hbelow, getElem?_glyphSet, Option.getD_some]

theorem read_loadedMemory_rom (p : Params) {rom : List Byte} (h : rom.length ≤ 3584) {k : Nat} {b : Byte}
    (hb : rom[k]? = some b) : (loadedMemory p rom).read (0x200 + k) = b := by
  rw [read_loadedMemory p h, if_pos (Nat.le_add_right ..), Nat.add_sub_cancel_left, hb, Option.getD_some]

theorem read_loadedMemory_elsewhere (p : Params) {rom : List Byte} (h : rom.length ≤ 3584) {a : Nat} (ha : 80 ≤ a)
    (hrom : a < 0x200 ∨ 0x200 + rom.length ≤ a) : (loadedMemory p rom).read a = 0 := by
  rw [read_loadedMemory p h]
  split
  case isTrue hle =>
    have hpast : rom.length ≤ a - 0x200 := by omega
    rw [List.getElem?_eq_none hpast, Option.getD_none]
  case isFalse => rw [List.getElem?_eq_none (by rwa [length_glyphSet]), Option.getD_none]

/-! ## The event (R203, R206) -/

/-- A Load of a ROM that fits is a Reset with the memory of that Load. -/
theorem loadRom_fits (s : State) {rom : List Byte} (h : rom.length ≤ 3584) :
    s.loadRom rom = { s.resetCells with memory := loadedMemory s.params rom } :=
  if_neg (Nat.not_lt.2 (Nat.add_le_add_right h 0x200))

/-- Settles O16: the event is a Reset in every cell but memory, whose every byte `read_loadedMemory` gives. -/
theorem loadPlacesGlyphsAndRom : Obligations.LoadPlacesGlyphsAndRom := by
  intro s rom rest hpending hsize
  obtain ⟨hreg, hstack, hpixel, -, hcells⟩ := cellsAtReset_resetCells s
  obtain ⟨hsp, hip, hi, hdelay, hsound, hopcode⟩ := hcells
  refine ⟨_, (step_pending hpending).trans (congrArg Host.Outcome.next (loadRom_fits _ hsize)), ?glyphs, ?rom, ?zero,
    hreg, hstack, hpixel, hsp, hip, hi, hdelay, hsound, hopcode, rfl, rfl, rfl, rfl, rfl⟩
  case glyphs => exact read_loadedMemory_glyph s.params hsize
  case rom => exact fun _ _ => read_loadedMemory_rom s.params hsize
  case zero => exact fun _ => read_loadedMemory_elsewhere s.params hsize

end Sys2Proof.Machine
